-- ==== Sys2Proof/Word.lean ====
section
/-! DEFINITION. The word types of the AVR: bytes, program words, data addresses, program counters, register numbers
(00_scope.md R9, 10_state.md R30, R34). -/

namespace Sys2Proof

/-- A byte: a general register, an I/O register, a data-memory cell (R9, R30). -/
abbrev Byte := BitVec 8

/-- A 16-bit word: a program word, a register pair, a data address (R9). -/
abbrev Word := BitVec 16

/-- A word address of program memory, wide enough for the 22-bit class (R6, R34). -/
abbrev PcAddr := BitVec 22

/-- A byte address of program memory as `RAMPZ : Z` forms it (10_state.md R42). -/
abbrev ProgByteAddr := BitVec 24

/-- The number of a general register, 0 … 31 (R30). -/
abbrev Reg := BitVec 5

/-- An I/O address, 0 … 63 (10_state.md R45). -/
abbrev IoAddr := BitVec 6

end Sys2Proof
end

