-- ==== Sys2Proof/Config.lean ====
section
/-! DEFINITION. What an implementation fixes: the device parameters of 00_scope.md R7 as one record of plain data,
the ATmega32's column of that table, and the free values of the spec (its "draws"). -/

namespace Sys2Proof

/-- The two device classes by program-counter width (R6): `PC_BITS` 16 or 22. -/
inductive PcClass where
  | bits16
  | bits22
deriving DecidableEq, Repr

/-- `CORE` of R7: which of the two uses of the `1010 …` words the device has (30_encoding.md R117). -/
inductive CoreKind where
  | classic
  | reduced
deriving DecidableEq, Repr

/-- `BREAK_MODE` of R7: what BREAK does (44_mcu_control.md R391). -/
inductive BreakMode where
  | nop
  | stop
deriving DecidableEq, Repr

/-! `flags` of R7: "a replaceable configuration" (92_eei_decisions.md D1) of the flag functions. It is written as the list of
the rules in which it departs from the spec's default functions, so that it is plain data and any replacement of any
flag of any function can be written down. Log entry 16. -/

/-- The flags that the flag functions may write; I and T are never written by them (40_arithmetic_logic.md R140,
43_bit_and_bit_test.md R341). -/
inductive FlagName where
  | h
  | s
  | v
  | n
  | z
  | c
deriving DecidableEq, Repr

/-- The flag functions, with what each is given as `a`, `b` and `res` (40_arithmetic_logic.md R141 … R150,
43_bit_and_bit_test.md R341). Bytes are extended by zeros; what a function is not given is 0. -/
inductive FlagFn where
  /-- `flags_add(a, b, res)`. -/
  | add
  /-- `flags_sub(a, b, res)`. -/
  | sub
  /-- `flags_sbc(a, b, res)`. -/
  | sbc
  /-- `flags_logic(res)`. -/
  | logic
  /-- `flags_com(res)`. -/
  | com
  /-- `flags_neg(a, res)`. -/
  | neg
  /-- `flags_inc(res)`. -/
  | inc
  /-- `flags_dec(res)`. -/
  | dec
  /-- `flags_adiw(a16, res16)`. -/
  | adiw
  /-- `flags_sbiw(a16, res16)`. -/
  | sbiw
  /-- `flags_mul(p16)`: the product is `res`. -/
  | mul
  /-- `flags_fmul(p16, res16)`: the product before the shift is `a`. -/
  | fmul
  /-- `flags_shift(res, cout)`: `cout` is bit 0 of `a`. -/
  | shift
deriving DecidableEq, Repr

/-- A Boolean expression over the bits that a flag function is given and the flags before the instruction. -/
inductive FlagExpr where
  | const (x : Bool)
  | a (k : Fin 16)
  | b (k : Fin 16)
  | res (k : Fin 16)
  | old (f : FlagName)
  | not (e : FlagExpr)
  | and (d e : FlagExpr)
  | or (d e : FlagExpr)
  | xor (d e : FlagExpr)
deriving DecidableEq, Repr

/-- One departure from the default: function `fn` writes `value` to `flag`. -/
structure FlagRule where
  fn : FlagFn
  flag : FlagName
  value : FlagExpr
deriving DecidableEq, Repr

/-- The parameters of the model, R7, with `ENV_IRQ` of 60_exceptions.md R402 and the I/O addresses `io_addr`
(92_eei_decisions.md D25). SREG's address 0x3F is the source's and is no parameter. -/
structure Device where
  /-- `PC_BITS`. -/
  pcClass : PcClass
  /-- `FLASH_WORDS`: valid program words are 0 … FLASH_WORDS − 1. -/
  flashWords : Nat
  /-- `RAMSTART`: the first data address of internal SRAM. -/
  ramStart : Nat
  /-- `RAMEND`: the last data address of internal SRAM. -/
  ramEnd : Nat
  /-- `EEPROM_BYTES`. -/
  eepromBytes : Nat
  /-- `HAS_RAMPZ`: RAMPZ and ELPM exist. -/
  hasRampz : Bool
  /-- `HAS_EIND`: EIND, EIJMP, EICALL exist. -/
  hasEind : Bool
  /-- `CORE`. -/
  core : CoreKind
  /-- `HAS_MUL`. -/
  hasMul : Bool
  /-- `HAS_JMP_CALL`. -/
  hasJmpCall : Bool
  /-- `HAS_XCH`. -/
  hasXch : Bool
  /-- `HAS_SPM_ZPLUS`. -/
  hasSpmZPlus : Bool
  /-- `HAS_BREAK`. -/
  hasBreak : Bool
  /-- `BREAK_MODE`. -/
  breakMode : BreakMode
  /-- `N_VECTORS`. -/
  nVectors : Nat
  /-- `VECTOR_STRIDE`, in program words. -/
  vectorStride : Nat
  /-- `ENV_IRQ`: the sources the environment may raise (R402). -/
  envIrq : List Nat
  /-- `io_addr(SPL)`. -/
  splAddr : IoAddr
  /-- `io_addr(SPH)`. -/
  sphAddr : IoAddr
  /-- `io_addr(RAMPZ)`. -/
  rampzAddr : IoAddr
  /-- `io_addr(EIND)`. -/
  eindAddr : IoAddr
  /-- `io_addr(EEARL)`. -/
  eearlAddr : IoAddr
  /-- `io_addr(EEARH)`. -/
  eearhAddr : IoAddr
  /-- `io_addr(EEDR)`. -/
  eedrAddr : IoAddr
  /-- `io_addr(EECR)`. -/
  eecrAddr : IoAddr
  /-- The I/O addresses of GPIOR0, GPIOR1, …: `N_GPIOR` of them (10_state.md R44). -/
  gpiorAddrs : List IoAddr
  /-- `flags`: where the flag functions depart from the default ones; the first rule for a flag counts, and with none
  they are the default. -/
  flags : List FlagRule
deriving DecidableEq, Repr

/-- The ATmega32's column of R7, with the I/O addresses of D25 and `ENV_IRQ` empty (D32). -/
def Device.atmega32 : Device where
  pcClass := .bits16
  flashWords := 16384
  ramStart := 0x60
  ramEnd := 0x085F
  eepromBytes := 1024
  hasRampz := false
  hasEind := false
  core := .classic
  hasMul := true
  hasJmpCall := true
  hasXch := false
  hasSpmZPlus := false
  hasBreak := true
  breakMode := .nop
  nVectors := 21
  vectorStride := 2
  envIrq := []
  splAddr := 0x3D
  sphAddr := 0x3E
  rampzAddr := 0x3B
  eindAddr := 0x3C
  eearlAddr := 0x1E
  eearhAddr := 0x1F
  eedrAddr := 0x1D
  eecrAddr := 0x1C
  gpiorAddrs := []
  flags := []

/-- The I/O addresses that a device describes (SREG among them). -/
def Device.describedAddrs (c : Device) : List IoAddr :=
  [0x3F, c.splAddr, c.sphAddr, c.eearlAddr, c.eearhAddr, c.eedrAddr, c.eecrAddr] ++
    (if c.hasRampz then [c.rampzAddr] else []) ++
    (if c.hasEind then [c.eindAddr] else []) ++ c.gpiorAddrs

/-- What R7 says of the parameters together: EIND needs the 22-bit class (41_branch.md R203), program memory fits
the class's maximum (R6), SRAM starts after the I/O range (20_memory.md R71), EEAR reaches the EEPROM, at most three GPIORs, all bit-accessible (10_state.md R44), no
two described registers at one address, and `ENV_IRQ ⊆ {2, …, N_VECTORS} \ {18}` (60_exceptions.md R402). -/
def Device.wf (c : Device) : Bool :=
  (!c.hasEind || decide (c.pcClass = .bits22)) &&
  (match c.pcClass with
    | .bits16 => decide (c.flashWords ≤ 2 ^ 16)
    | .bits22 => decide (c.flashWords ≤ 2 ^ 22)) &&
  decide (c.eepromBytes ≤ 1024) &&
  decide (0x60 ≤ c.ramStart) &&
  decide (c.ramEnd < 2 ^ 16) &&
  decide (c.gpiorAddrs.length ≤ 3) &&
  c.gpiorAddrs.all (fun a => decide (a.toNat < 32)) &&
  decide (c.describedAddrs.Nodup) &&
  c.envIrq.all (fun n => decide (2 ≤ n) && decide (n ≤ c.nVectors) && decide (n ≠ 18))

/-! The free values. Each is an uninterpreted constant: the spec calls its value a draw, "any value of the type,
chosen by the environment, different each time" (92_eei_decisions.md). Each is applied to the counter `draws` of the
state, which advances at every use. -/

/-- What a read of an undescribed I/O register returns (10_state.md R45, D19). Log entry 8. -/
opaque Config.ioByte : Nat → Byte

/-- Bit EEMWE as read in the second to fourth instruction of its window (60_exceptions.md R413, D36). Log entry 9. -/
opaque Config.eemweBit : Nat → Bool

/-- How many further processor steps the EEPROM programmer lets pass before its own: finite, unbounded
(60_exceptions.md R417, D24). Log entry 10. -/
opaque Config.programmerWait : Nat → Nat

/-- Whether the environment raises source `n` in its move at counter `k` (60_exceptions.md R402, D32). Log entry 14. -/
opaque Config.envRaises : (k n : Nat) → Bool

end Sys2Proof
end

