-- ==== Sys2Proof/Machine/Bytes.lean ====
section
/-! DEFINITION. Byte and bit-field helpers shared by the decoder and the machine (00_scope.md R9, R11). -/

namespace Sys2Proof

/-- `v[7:0]` of a 16-bit value. -/
def lowByte (v : Word) : Byte := v.extractLsb' 0 8

/-- `v[15:8]` of a 16-bit value. -/
def highByte (v : Word) : Byte := v.extractLsb' 8 8

/-- `hi : lo`, the concatenation of R11. -/
def wordOf (hi lo : Byte) : Word := hi ++ lo

/-- `v[b]`. -/
def bitOf (v : Byte) (b : BitVec 3) : Bool := v.getLsbD b.toNat

/-- `v` with bit `b` set to `x`, the other seven bits kept. -/
def withBit (v : Byte) (b : BitVec 3) (x : Bool) : Byte :=
  if x then v ||| (1#8 <<< b.toNat) else v &&& ~~~(1#8 <<< b.toNat)

end Sys2Proof
end

