-- ==== Sys2Proof/Machine/Flags.lean ====
section
/-! DEFINITION. SREG as eight flags and every flag computation of the spec (40_arithmetic_logic.md R141 … R150,
43_bit_and_bit_test.md R341). These are the spec's default of the replaceable configuration `flags`
(92_eei_decisions.md D1; log entry 16); `replaceFlags` is what a device's own configuration makes of them. -/

namespace Sys2Proof.Machine

/-- The eight flags of SREG (10_state.md R36). -/
structure Flags where
  /-- Global interrupt enable, bit 7. -/
  i : Bool
  /-- Bit copy storage, bit 6. -/
  t : Bool
  /-- Half carry, bit 5. -/
  h : Bool
  /-- Sign, bit 4. -/
  s : Bool
  /-- Two's-complement overflow, bit 3. -/
  v : Bool
  /-- Negative, bit 2. -/
  n : Bool
  /-- Zero, bit 1. -/
  z : Bool
  /-- Carry or borrow, bit 0. -/
  c : Bool
deriving DecidableEq, Repr

/-- The flags in an SREG byte, at the bit positions of R36. -/
def flagsOf (sreg : Byte) : Flags where
  i := sreg.getLsbD 7
  t := sreg.getLsbD 6
  h := sreg.getLsbD 5
  s := sreg.getLsbD 4
  v := sreg.getLsbD 3
  n := sreg.getLsbD 2
  z := sreg.getLsbD 1
  c := sreg.getLsbD 0

/-- The SREG byte that holds the flags (R36). -/
def sregOf (f : Flags) : Byte :=
  BitVec.ofBool f.i ++ BitVec.ofBool f.t ++ BitVec.ofBool f.h ++ BitVec.ofBool f.s ++
    BitVec.ofBool f.v ++ BitVec.ofBool f.n ++ BitVec.ofBool f.z ++ BitVec.ofBool f.c

/-- `flags_add` (R141). -/
def flagsAdd (a b res : Byte) (f : Flags) : Flags :=
  let a3 := a.getLsbD 3; let b3 := b.getLsbD 3; let r3 := res.getLsbD 3
  let a7 := a.getLsbD 7; let b7 := b.getLsbD 7; let r7 := res.getLsbD 7
  let v := (a7 && b7 && !r7) || (!a7 && !b7 && r7)
  { f with
    h := (a3 && b3) || (b3 && !r3) || (!r3 && a3)
    v := v
    n := r7
    z := res == 0
    c := (a7 && b7) || (b7 && !r7) || (!r7 && a7)
    s := r7 ^^ v }

/-- `flags_sub` (R142). -/
def flagsSub (a b res : Byte) (f : Flags) : Flags :=
  let a3 := a.getLsbD 3; let b3 := b.getLsbD 3; let r3 := res.getLsbD 3
  let a7 := a.getLsbD 7; let b7 := b.getLsbD 7; let r7 := res.getLsbD 7
  let v := (a7 && !b7 && !r7) || (!a7 && b7 && r7)
  { f with
    h := (!a3 && b3) || (b3 && r3) || (r3 && !a3)
    v := v
    n := r7
    z := res == 0
    c := (!a7 && b7) || (b7 && r7) || (r7 && !a7)
    s := r7 ^^ v }

/-- `flags_sbc` (R143): as `flags_sub`, and Z can only stay or be cleared. -/
def flagsSbc (a b res : Byte) (f : Flags) : Flags :=
  { flagsSub a b res f with z := (res == 0) && f.z }

/-- `flags_logic` (R144). -/
def flagsLogic (res : Byte) (f : Flags) : Flags :=
  { f with v := false, n := res.getLsbD 7, z := res == 0, s := res.getLsbD 7 ^^ false }

/-- `flags_com` (R145). -/
def flagsCom (res : Byte) (f : Flags) : Flags := { flagsLogic res f with c := true }

/-- `flags_neg` (R146). -/
def flagsNeg (a res : Byte) (f : Flags) : Flags :=
  { f with
    h := res.getLsbD 3 || a.getLsbD 3
    v := res == 0x80
    n := res.getLsbD 7
    z := res == 0
    c := res != 0
    s := res.getLsbD 7 ^^ (res == 0x80) }

/-- `flags_inc` (R147). -/
def flagsInc (res : Byte) (f : Flags) : Flags :=
  { f with v := res == 0x80, n := res.getLsbD 7, z := res == 0, s := res.getLsbD 7 ^^ (res == 0x80) }

/-- `flags_dec` (R148). -/
def flagsDec (res : Byte) (f : Flags) : Flags :=
  { f with v := res == 0x7F, n := res.getLsbD 7, z := res == 0, s := res.getLsbD 7 ^^ (res == 0x7F) }

/-- `flags_adiw` (R149). -/
def flagsAdiw (a res : Word) (f : Flags) : Flags :=
  let v := !a.getLsbD 15 && res.getLsbD 15
  { f with v := v, c := !res.getLsbD 15 && a.getLsbD 15, n := res.getLsbD 15, z := res == 0, s := res.getLsbD 15 ^^ v }

/-- `flags_sbiw` (R149). -/
def flagsSbiw (a res : Word) (f : Flags) : Flags :=
  let v := a.getLsbD 15 && !res.getLsbD 15
  { f with v := v, c := res.getLsbD 15 && !a.getLsbD 15, n := res.getLsbD 15, z := res == 0, s := res.getLsbD 15 ^^ v }

/-- `flags_mul` (R150). -/
def flagsMul (p : Word) (f : Flags) : Flags := { f with c := p.getLsbD 15, z := p == 0 }

/-- `flags_fmul` (R150): C from the product before the shift, Z from the value written. -/
def flagsFmul (p res : Word) (f : Flags) : Flags := { f with c := p.getLsbD 15, z := res == 0 }

/-- `flags_shift` (R341). -/
def flagsShift (res : Byte) (cout : Bool) (f : Flags) : Flags :=
  let v := res.getLsbD 7 ^^ cout
  { f with c := cout, n := res.getLsbD 7, z := res == 0, v := v, s := res.getLsbD 7 ^^ v }

/-! The configuration `flags` (00_scope.md R7, D1). -/

/-- What a flag function is given. -/
structure FlagArgs where
  a : Word
  b : Word
  res : Word
deriving DecidableEq, Repr

/-- The flag of that name. -/
def Flags.get (f : Flags) : FlagName → Bool
  | .h => f.h
  | .s => f.s
  | .v => f.v
  | .n => f.n
  | .z => f.z
  | .c => f.c

/-- The value of a flag expression, `old` being the flags before the instruction. -/
def flagValue (x : FlagArgs) (old : Flags) : FlagExpr → Bool
  | .const v => v
  | .a k => x.a.getLsbD k.val
  | .b k => x.b.getLsbD k.val
  | .res k => x.res.getLsbD k.val
  | .old g => old.get g
  | .not e => !flagValue x old e
  | .and d e => flagValue x old d && flagValue x old e
  | .or d e => flagValue x old d || flagValue x old e
  | .xor d e => flagValue x old d ^^ flagValue x old e

/-- The first rule of a configuration for one flag of one function. -/
def flagRule? (c : List FlagRule) (fn : FlagFn) (g : FlagName) : Option FlagRule :=
  c.find? (fun r => decide (r.fn = fn) && decide (r.flag = g))

/-- One flag after function `fn`: the configuration's rule for it, or its default `f`. -/
def replacedFlag (c : List FlagRule) (fn : FlagFn) (x : FlagArgs) (old f : Flags) (g : FlagName) : Bool :=
  match flagRule? c fn g with
  | some r => flagValue x old r.value
  | none => f.get g

/-- The flags after function `fn` under a configuration, `f` being what the default function answers. -/
def replaceFlags (c : List FlagRule) (fn : FlagFn) (x : FlagArgs) (old f : Flags) : Flags where
  i := f.i
  t := f.t
  h := replacedFlag c fn x old f .h
  s := replacedFlag c fn x old f .s
  v := replacedFlag c fn x old f .v
  n := replacedFlag c fn x old f .n
  z := replacedFlag c fn x old f .z
  c := replacedFlag c fn x old f .c

end Sys2Proof.Machine
end

