-- ==== Sys2Proof/Syntax.lean ====
section
/-! DEFINITION. The instructions: one constructor per row of spec/opcode_table.json, in its order. Operands are the
assembler's (register numbers, not field values); an alias row's constructor is the assembler's spelling of another
row's words (30_encoding.md R114). `CBR`'s K is the operand as written, which its words hold complemented (R109). -/

namespace Sys2Proof

/-- One constructor per row of the opcode table; each docstring names the row and its rule. -/
inductive Instr where
  /-- `ADD Rd,Rr` (R151). -/
  | add (d r : Reg)
  /-- `ADC Rd,Rr` (R152). -/
  | adc (d r : Reg)
  /-- `ADIW Rd+1:Rd,K` (R153). -/
  | adiw (d : Reg) (K : BitVec 6)
  /-- `SUB Rd,Rr` (R154). -/
  | sub (d r : Reg)
  /-- `SUBI Rd,K` (R155). -/
  | subi (d : Reg) (K : Byte)
  /-- `SBC Rd,Rr` (R156). -/
  | sbc (d r : Reg)
  /-- `SBCI Rd,K` (R157). -/
  | sbci (d : Reg) (K : Byte)
  /-- `SBIW Rd+1:Rd,K` (R158). -/
  | sbiw (d : Reg) (K : BitVec 6)
  /-- `AND Rd,Rr` (R159). -/
  | and (d r : Reg)
  /-- `ANDI Rd,K` (R160). -/
  | andi (d : Reg) (K : Byte)
  /-- `OR Rd,Rr` (R161). -/
  | or (d r : Reg)
  /-- `ORI Rd,K` (R162). -/
  | ori (d : Reg) (K : Byte)
  /-- `EOR Rd,Rr` (R163). -/
  | eor (d r : Reg)
  /-- `COM Rd` (R164). -/
  | com (d : Reg)
  /-- `NEG Rd` (R165). -/
  | neg (d : Reg)
  /-- `SBR Rd,K` (R166), alias of ORI. -/
  | sbr (d : Reg) (K : Byte)
  /-- `CBR Rd,K` (R167), alias of ANDI. -/
  | cbr (d : Reg) (K : Byte)
  /-- `INC Rd` (R168). -/
  | inc (d : Reg)
  /-- `DEC Rd` (R169). -/
  | dec (d : Reg)
  /-- `TST Rd` (R170), alias of AND. -/
  | tst (d : Reg)
  /-- `CLR Rd` (R171), alias of EOR. -/
  | clr (d : Reg)
  /-- `SER Rd` (R172), alias of LDI. -/
  | ser (d : Reg)
  /-- `MUL Rd,Rr` (R173). -/
  | mul (d r : Reg)
  /-- `MULS Rd,Rr` (R174). -/
  | muls (d r : Reg)
  /-- `MULSU Rd,Rr` (R175). -/
  | mulsu (d r : Reg)
  /-- `FMUL Rd,Rr` (R176). -/
  | fmul (d r : Reg)
  /-- `FMULS Rd,Rr` (R177). -/
  | fmuls (d r : Reg)
  /-- `FMULSU Rd,Rr` (R178). -/
  | fmulsu (d r : Reg)
  /-- `RJMP k` (R201). -/
  | rjmp (k : BitVec 12)
  /-- `IJMP` (R202). -/
  | ijmp
  /-- `EIJMP` (R203). -/
  | eijmp
  /-- `JMP k` (R204). -/
  | jmp (k : PcAddr)
  /-- `RCALL k` (R205). -/
  | rcall (k : BitVec 12)
  /-- `ICALL` (R206). -/
  | icall
  /-- `EICALL` (R207). -/
  | eicall
  /-- `CALL k` (R208). -/
  | call (k : PcAddr)
  /-- `RET` (R209). -/
  | ret
  /-- `RETI` (R210). -/
  | reti
  /-- `CPSE Rd,Rr` (R211). -/
  | cpse (d r : Reg)
  /-- `CP Rd,Rr` (R212). -/
  | cp (d r : Reg)
  /-- `CPC Rd,Rr` (R213). -/
  | cpc (d r : Reg)
  /-- `CPI Rd,K` (R214). -/
  | cpi (d : Reg) (K : Byte)
  /-- `SBRC Rr,b` (R215). -/
  | sbrc (r : Reg) (b : BitVec 3)
  /-- `SBRS Rr,b` (R216). -/
  | sbrs (r : Reg) (b : BitVec 3)
  /-- `SBIC A,b` (R217). -/
  | sbic (A : BitVec 5) (b : BitVec 3)
  /-- `SBIS A,b` (R218). -/
  | sbis (A : BitVec 5) (b : BitVec 3)
  /-- `BRBS s,k` (R219). -/
  | brbs (s : BitVec 3) (k : BitVec 7)
  /-- `BRBC s,k` (R220). -/
  | brbc (s : BitVec 3) (k : BitVec 7)
  /-- `BREQ k` (R221), alias of BRBS. -/
  | breq (k : BitVec 7)
  /-- `BRNE k` (R222), alias of BRBC. -/
  | brne (k : BitVec 7)
  /-- `BRCS k` (R223), alias of BRBS. -/
  | brcs (k : BitVec 7)
  /-- `BRCC k` (R224), alias of BRBC. -/
  | brcc (k : BitVec 7)
  /-- `BRSH k` (R225), alias of BRBC. -/
  | brsh (k : BitVec 7)
  /-- `BRLO k` (R226), alias of BRBS. -/
  | brlo (k : BitVec 7)
  /-- `BRMI k` (R227), alias of BRBS. -/
  | brmi (k : BitVec 7)
  /-- `BRPL k` (R228), alias of BRBC. -/
  | brpl (k : BitVec 7)
  /-- `BRGE k` (R229), alias of BRBC. -/
  | brge (k : BitVec 7)
  /-- `BRLT k` (R230), alias of BRBS. -/
  | brlt (k : BitVec 7)
  /-- `BRHS k` (R231), alias of BRBS. -/
  | brhs (k : BitVec 7)
  /-- `BRHC k` (R232), alias of BRBC. -/
  | brhc (k : BitVec 7)
  /-- `BRTS k` (R233), alias of BRBS. -/
  | brts (k : BitVec 7)
  /-- `BRTC k` (R234), alias of BRBC. -/
  | brtc (k : BitVec 7)
  /-- `BRVS k` (R235), alias of BRBS. -/
  | brvs (k : BitVec 7)
  /-- `BRVC k` (R236), alias of BRBC. -/
  | brvc (k : BitVec 7)
  /-- `BRIE k` (R237), alias of BRBS. -/
  | brie (k : BitVec 7)
  /-- `BRID k` (R238), alias of BRBC. -/
  | brid (k : BitVec 7)
  /-- `MOV Rd,Rr` (R261). -/
  | mov (d r : Reg)
  /-- `MOVW Rd+1:Rd,Rr+1:Rr` (R262). -/
  | movw (d r : Reg)
  /-- `LDI Rd,K` (R263). -/
  | ldi (d : Reg) (K : Byte)
  /-- `LDS Rd,k` (R264). -/
  | lds (d : Reg) (k : Word)
  /-- `LDS Rd,k (16-bit)` (R265). -/
  | ldsShort (d : Reg) (k : BitVec 7)
  /-- `LD Rd,X` (R266). -/
  | ldX (d : Reg)
  /-- `LD Rd,X+` (R267). -/
  | ldXInc (d : Reg)
  /-- `LD Rd,-X` (R268). -/
  | ldXDec (d : Reg)
  /-- `LD Rd,Y` (R269), alias of LDD Rd,Y+q. -/
  | ldY (d : Reg)
  /-- `LD Rd,Y+` (R270). -/
  | ldYInc (d : Reg)
  /-- `LD Rd,-Y` (R271). -/
  | ldYDec (d : Reg)
  /-- `LDD Rd,Y+q` (R272). -/
  | lddY (d : Reg) (q : BitVec 6)
  /-- `LD Rd,Z` (R273), alias of LDD Rd,Z+q. -/
  | ldZ (d : Reg)
  /-- `LD Rd,Z+` (R274). -/
  | ldZInc (d : Reg)
  /-- `LD Rd,-Z` (R275). -/
  | ldZDec (d : Reg)
  /-- `LDD Rd,Z+q` (R276). -/
  | lddZ (d : Reg) (q : BitVec 6)
  /-- `STS k,Rr` (R277). -/
  | sts (k : Word) (r : Reg)
  /-- `STS k,Rr (16-bit)` (R278). -/
  | stsShort (k : BitVec 7) (r : Reg)
  /-- `ST X,Rr` (R279). -/
  | stX (r : Reg)
  /-- `ST X+,Rr` (R280). -/
  | stXInc (r : Reg)
  /-- `ST -X,Rr` (R281). -/
  | stXDec (r : Reg)
  /-- `ST Y,Rr` (R282), alias of STD Y+q,Rr. -/
  | stY (r : Reg)
  /-- `ST Y+,Rr` (R283). -/
  | stYInc (r : Reg)
  /-- `ST -Y,Rr` (R284). -/
  | stYDec (r : Reg)
  /-- `STD Y+q,Rr` (R285). -/
  | stdY (q : BitVec 6) (r : Reg)
  /-- `ST Z,Rr` (R286), alias of STD Z+q,Rr. -/
  | stZ (r : Reg)
  /-- `ST Z+,Rr` (R287). -/
  | stZInc (r : Reg)
  /-- `ST -Z,Rr` (R288). -/
  | stZDec (r : Reg)
  /-- `STD Z+q,Rr` (R289). -/
  | stdZ (q : BitVec 6) (r : Reg)
  /-- `LPM` (R290). -/
  | lpm
  /-- `LPM Rd,Z` (R291). -/
  | lpmZ (d : Reg)
  /-- `LPM Rd,Z+` (R292). -/
  | lpmZInc (d : Reg)
  /-- `ELPM` (R293). -/
  | elpm
  /-- `ELPM Rd,Z` (R294). -/
  | elpmZ (d : Reg)
  /-- `ELPM Rd,Z+` (R295). -/
  | elpmZInc (d : Reg)
  /-- `SPM` (R296). -/
  | spm
  /-- `SPM Z+` (R297). -/
  | spmZInc
  /-- `IN Rd,A` (R298). -/
  | inp (d : Reg) (A : IoAddr)
  /-- `OUT A,Rr` (R299). -/
  | out (A : IoAddr) (r : Reg)
  /-- `PUSH Rr` (R300). -/
  | push (r : Reg)
  /-- `POP Rd` (R301). -/
  | pop (d : Reg)
  /-- `XCH Z,Rd` (R302). -/
  | xch (d : Reg)
  /-- `LSL Rd` (R342), alias of ADD. -/
  | lsl (d : Reg)
  /-- `LSR Rd` (R343). -/
  | lsr (d : Reg)
  /-- `ROL Rd` (R344), alias of ADC. -/
  | rol (d : Reg)
  /-- `ROR Rd` (R345). -/
  | ror (d : Reg)
  /-- `ASR Rd` (R346). -/
  | asr (d : Reg)
  /-- `SWAP Rd` (R347). -/
  | swap (d : Reg)
  /-- `BSET s` (R348). -/
  | bset (s : BitVec 3)
  /-- `BCLR s` (R349). -/
  | bclr (s : BitVec 3)
  /-- `SBI A,b` (R350). -/
  | sbi (A : BitVec 5) (b : BitVec 3)
  /-- `CBI A,b` (R351). -/
  | cbi (A : BitVec 5) (b : BitVec 3)
  /-- `BST Rd,b` (R352). -/
  | bst (d : Reg) (b : BitVec 3)
  /-- `BLD Rd,b` (R353). -/
  | bld (d : Reg) (b : BitVec 3)
  /-- `SEC` (R354), alias of BSET. -/
  | sec
  /-- `CLC` (R355), alias of BCLR. -/
  | clc
  /-- `SEN` (R356), alias of BSET. -/
  | sen
  /-- `CLN` (R357), alias of BCLR. -/
  | cln
  /-- `SEZ` (R358), alias of BSET. -/
  | sez
  /-- `CLZ` (R359), alias of BCLR. -/
  | clz
  /-- `SEI` (R360), alias of BSET. -/
  | sei
  /-- `CLI` (R361), alias of BCLR. -/
  | cli
  /-- `SES` (R362), alias of BSET. -/
  | ses
  /-- `CLS` (R363), alias of BCLR. -/
  | cls
  /-- `SEV` (R364), alias of BSET. -/
  | sev
  /-- `CLV` (R365), alias of BCLR. -/
  | clv
  /-- `SET` (R366), alias of BSET. -/
  | setT
  /-- `CLT` (R367), alias of BCLR. -/
  | clt
  /-- `SEH` (R368), alias of BSET. -/
  | seh
  /-- `CLH` (R369), alias of BCLR. -/
  | clh
  /-- `BREAK` (R391). -/
  | brk
  /-- `NOP` (R392). -/
  | nop
  /-- `SLEEP` (R393). -/
  | sleep
  /-- `WDR` (R394). -/
  | wdr
deriving DecidableEq, Repr

end Sys2Proof
end

