-- ==== Sys2Proof/WellFormed.lean ====
section
/-! DEFINITION. Well-formed instructions: the operand ranges of 10_state.md R33 that the operand types do not
already enforce. -/

namespace Sys2Proof

/-- "16 ≤ d ≤ 31": the immediate group, MULS, the 16-bit LDS/STS (R33). -/
def Reg.high (d : Reg) : Bool := decide (16 ≤ d.toNat)

/-- "16 ≤ d ≤ 23": MULSU, FMUL, FMULS, FMULSU (R33). -/
def Reg.mid (d : Reg) : Bool := decide (16 ≤ d.toNat) && decide (d.toNat ≤ 23)

/-- "d ∈ {24, 26, 28, 30}": ADIW, SBIW (R33). -/
def Reg.pairHigh (d : Reg) : Bool := decide (24 ≤ d.toNat) && decide (d.toNat % 2 = 0)

/-- "d ∈ {0, 2, …, 30}": MOVW (R33). -/
def Reg.even (d : Reg) : Bool := decide (d.toNat % 2 = 0)

/-- The operand ranges D00 prints, one arm per constructor (R33; each instruction's "Operands" line). -/
def Instr.wf : Instr → Bool
  | .add _ _ => true
  | .adc _ _ => true
  | .adiw d _ => d.pairHigh
  | .sub _ _ => true
  | .subi d _ => d.high
  | .sbc _ _ => true
  | .sbci d _ => d.high
  | .sbiw d _ => d.pairHigh
  | .and _ _ => true
  | .andi d _ => d.high
  | .or _ _ => true
  | .ori d _ => d.high
  | .eor _ _ => true
  | .com _ => true
  | .neg _ => true
  | .sbr d _ => d.high
  | .cbr d _ => d.high
  | .inc _ => true
  | .dec _ => true
  | .tst _ => true
  | .clr _ => true
  | .ser d => d.high
  | .mul _ _ => true
  | .muls d r => d.high && r.high
  | .mulsu d r => d.mid && r.mid
  | .fmul d r => d.mid && r.mid
  | .fmuls d r => d.mid && r.mid
  | .fmulsu d r => d.mid && r.mid
  | .rjmp _ => true
  | .ijmp => true
  | .eijmp => true
  | .jmp _ => true
  | .rcall _ => true
  | .icall => true
  | .eicall => true
  | .call _ => true
  | .ret => true
  | .reti => true
  | .cpse _ _ => true
  | .cp _ _ => true
  | .cpc _ _ => true
  | .cpi d _ => d.high
  | .sbrc _ _ => true
  | .sbrs _ _ => true
  | .sbic _ _ => true
  | .sbis _ _ => true
  | .brbs _ _ => true
  | .brbc _ _ => true
  | .breq _ => true
  | .brne _ => true
  | .brcs _ => true
  | .brcc _ => true
  | .brsh _ => true
  | .brlo _ => true
  | .brmi _ => true
  | .brpl _ => true
  | .brge _ => true
  | .brlt _ => true
  | .brhs _ => true
  | .brhc _ => true
  | .brts _ => true
  | .brtc _ => true
  | .brvs _ => true
  | .brvc _ => true
  | .brie _ => true
  | .brid _ => true
  | .mov _ _ => true
  | .movw d r => d.even && r.even
  | .ldi d _ => d.high
  | .lds _ _ => true
  | .ldsShort d _ => d.high
  | .ldX _ => true
  | .ldXInc _ => true
  | .ldXDec _ => true
  | .ldY _ => true
  | .ldYInc _ => true
  | .ldYDec _ => true
  | .lddY _ _ => true
  | .ldZ _ => true
  | .ldZInc _ => true
  | .ldZDec _ => true
  | .lddZ _ _ => true
  | .sts _ _ => true
  | .stsShort _ r => r.high
  | .stX _ => true
  | .stXInc _ => true
  | .stXDec _ => true
  | .stY _ => true
  | .stYInc _ => true
  | .stYDec _ => true
  | .stdY _ _ => true
  | .stZ _ => true
  | .stZInc _ => true
  | .stZDec _ => true
  | .stdZ _ _ => true
  | .lpm => true
  | .lpmZ _ => true
  | .lpmZInc _ => true
  | .elpm => true
  | .elpmZ _ => true
  | .elpmZInc _ => true
  | .spm => true
  | .spmZInc => true
  | .inp _ _ => true
  | .out _ _ => true
  | .push _ => true
  | .pop _ => true
  | .xch _ => true
  | .lsl _ => true
  | .lsr _ => true
  | .rol _ => true
  | .ror _ => true
  | .asr _ => true
  | .swap _ => true
  | .bset _ => true
  | .bclr _ => true
  | .sbi _ _ => true
  | .cbi _ _ => true
  | .bst _ _ => true
  | .bld _ _ => true
  | .sec => true
  | .clc => true
  | .sen => true
  | .cln => true
  | .sez => true
  | .clz => true
  | .sei => true
  | .cli => true
  | .ses => true
  | .cls => true
  | .sev => true
  | .clv => true
  | .setT => true
  | .clt => true
  | .seh => true
  | .clh => true
  | .brk => true
  | .nop => true
  | .sleep => true
  | .wdr => true

end Sys2Proof
end

