-- ==== Sys2Proof/Decode.lean ====
section
/-! DEFINITION. The decoder (30_encoding.md R100 … R118), total on any words, and after it the encoder, written from
the same tables. A decoder returns the base instruction, never an alias (R111). -/

namespace Sys2Proof

/-! Fields of an instruction word (R103, R104). -/

/-- `d dddd` at bits 8…4; also the `r rrrr` of formats RB, IO, LS, LQ. -/
def fieldReg (w : Word) : Reg := w.extractLsb' 4 5

/-- `r = w[9] : w[3:0]` of format RR. -/
def fieldSrc (w : Word) : Reg := w.extractLsb' 9 1 ++ w.extractLsb' 0 4

/-- `d = 16 + dddd` of formats RI, M4, LK7. -/
def fieldReg4 (w : Word) : Reg := 0b1#1 ++ w.extractLsb' 4 4

/-- `r = 16 + rrrr` of format M4. -/
def fieldSrc4 (w : Word) : Reg := 0b1#1 ++ w.extractLsb' 0 4

/-- `d = 16 + ddd` of format M3. -/
def fieldReg3 (w : Word) : Reg := 0b10#2 ++ w.extractLsb' 4 3

/-- `r = 16 + rrr` of format M3. -/
def fieldSrc3 (w : Word) : Reg := 0b10#2 ++ w.extractLsb' 0 3

/-- `d = 24 + 2·dd` of format IW. -/
def fieldPair (w : Word) : Reg := 0b11#2 ++ w.extractLsb' 4 2 ++ 0b0#1

/-- `d = 2·dddd` of format MW. -/
def fieldEven (w : Word) : Reg := w.extractLsb' 4 4 ++ 0b0#1

/-- `r = 2·rrrr` of format MW. -/
def fieldSrcEven (w : Word) : Reg := w.extractLsb' 0 4 ++ 0b0#1

/-- `K = w[11:8] : w[3:0]` of format RI. -/
def fieldImm8 (w : Word) : Byte := w.extractLsb' 8 4 ++ w.extractLsb' 0 4

/-- `K = w[7:6] : w[3:0]` of format IW. -/
def fieldImm6 (w : Word) : BitVec 6 := w.extractLsb' 6 2 ++ w.extractLsb' 0 4

/-- `k = w[11:0]` of format J12. -/
def fieldRel12 (w : Word) : BitVec 12 := w.extractLsb' 0 12

/-- `k = w[9:3]` of format BR. -/
def fieldRel7 (w : Word) : BitVec 7 := w.extractLsb' 3 7

/-- `k = w1[8:4] : w1[0] : w2[15:0]` of format J22. -/
def fieldAbs22 (w w2 : Word) : PcAddr := w.extractLsb' 4 5 ++ w.extractLsb' 0 1 ++ w2

/-- `k = w[10:8] : w[3:0]` of format LK7. -/
def fieldAddr7 (w : Word) : BitVec 7 := w.extractLsb' 8 3 ++ w.extractLsb' 0 4

/-- `q = w[13] : w[11:10] : w[2:0]` of format LQ. -/
def fieldDisp (w : Word) : BitVec 6 := w.extractLsb' 13 1 ++ w.extractLsb' 10 2 ++ w.extractLsb' 0 3

/-- `A = w[10:9] : w[3:0]` of format IO. -/
def fieldIo6 (w : Word) : IoAddr := w.extractLsb' 9 2 ++ w.extractLsb' 0 4

/-- `A = w[7:3]` of format AB. -/
def fieldIo5 (w : Word) : BitVec 5 := w.extractLsb' 3 5

/-- `b` or `s` at bits 2…0 of formats RB, AB, BR. -/
def fieldBit (w : Word) : BitVec 3 := w.extractLsb' 0 3

/-- `s = w[6:4]` of format SB. -/
def fieldFlag (w : Word) : BitVec 3 := w.extractLsb' 4 3

/-- Whether `w` is the first word of a two-word instruction: `1001 010x xxxx 11xx` (JMP, CALL) or
`1001 00xx xxxx 0000` (LDS, STS), R101. -/
def isTwoWord (w : Word) : Bool :=
  (w.extractLsb' 9 7 == 0b1001010#7 && w.extractLsb' 2 2 == 0b11#2) ||
  (w.extractLsb' 10 6 == 0b100100#6 && w.extractLsb' 0 4 == 0b0000#4)

/-- `skiplen(w)` of R101: by the bit pattern alone, whether or not the device admits the instruction (D27). -/
def skipLen (w : Word) : Nat := if isTwoWord w then 2 else 1

/-- `0000 …`: NOP, MOVW, MULS, the M3 group, CPC, SBC, ADD (R107). -/
def decode0 (w : Word) : Option Instr :=
  if w.extractLsb' 10 2 = 0b01#2 then some (.cpc (fieldReg w) (fieldSrc w))
  else if w.extractLsb' 10 2 = 0b10#2 then some (.sbc (fieldReg w) (fieldSrc w))
  else if w.extractLsb' 10 2 = 0b11#2 then some (.add (fieldReg w) (fieldSrc w))
  else if w.extractLsb' 8 2 = 0b01#2 then some (.movw (fieldEven w) (fieldSrcEven w))
  else if w.extractLsb' 8 2 = 0b10#2 then some (.muls (fieldReg4 w) (fieldSrc4 w))
  else if w.extractLsb' 8 2 = 0b11#2 then
    (if w.extractLsb' 7 1 = 0b0#1 then
      (if w.extractLsb' 3 1 = 0b0#1 then some (.mulsu (fieldReg3 w) (fieldSrc3 w))
       else some (.fmul (fieldReg3 w) (fieldSrc3 w)))
     else
      (if w.extractLsb' 3 1 = 0b0#1 then some (.fmuls (fieldReg3 w) (fieldSrc3 w))
       else some (.fmulsu (fieldReg3 w) (fieldSrc3 w))))
  else if w = 0#16 then some .nop
  else none

/-- `0001 …`: CPSE, CP, SUB, ADC (R107). -/
def decode1 (w : Word) : Option Instr :=
  if w.extractLsb' 10 2 = 0b00#2 then some (.cpse (fieldReg w) (fieldSrc w))
  else if w.extractLsb' 10 2 = 0b01#2 then some (.cp (fieldReg w) (fieldSrc w))
  else if w.extractLsb' 10 2 = 0b10#2 then some (.sub (fieldReg w) (fieldSrc w))
  else some (.adc (fieldReg w) (fieldSrc w))

/-- `0010 …`: AND, EOR, OR, MOV (R107). -/
def decode2 (w : Word) : Option Instr :=
  if w.extractLsb' 10 2 = 0b00#2 then some (.and (fieldReg w) (fieldSrc w))
  else if w.extractLsb' 10 2 = 0b01#2 then some (.eor (fieldReg w) (fieldSrc w))
  else if w.extractLsb' 10 2 = 0b10#2 then some (.or (fieldReg w) (fieldSrc w))
  else some (.mov (fieldReg w) (fieldSrc w))

/-- `10q0 …` on a classic core: LDD and STD with Y+q (bit 3 = 1) or Z+q (bit 3 = 0), bit 9 = 1 the stores (R107). -/
def decodeDisp (w : Word) : Option Instr :=
  if w.extractLsb' 9 1 = 0b0#1 then
    (if w.extractLsb' 3 1 = 0b1#1 then some (.lddY (fieldReg w) (fieldDisp w))
     else some (.lddZ (fieldReg w) (fieldDisp w)))
  else
    (if w.extractLsb' 3 1 = 0b1#1 then some (.stdY (fieldDisp w) (fieldReg w))
     else some (.stdZ (fieldDisp w) (fieldReg w)))

/-- `1000 …` on a reduced core: `1000 00sr rrrr y000`, LD and ST with Y or Z and no displacement (R107, R117). -/
def decode8Reduced (w : Word) : Option Instr :=
  if w.extractLsb' 10 2 = 0b00#2 ∧ w.extractLsb' 0 3 = 0b000#3 then
    (if w.extractLsb' 9 1 = 0b0#1 then
      (if w.extractLsb' 3 1 = 0b1#1 then some (.ldY (fieldReg w)) else some (.ldZ (fieldReg w)))
     else
      (if w.extractLsb' 3 1 = 0b1#1 then some (.stY (fieldReg w)) else some (.stZ (fieldReg w))))
  else none

/-- `1010 …` on a reduced core: the 16-bit LDS (bit 11 = 0) and STS (R107, R117). -/
def decode10Reduced (w : Word) : Option Instr :=
  if w.extractLsb' 11 1 = 0b0#1 then some (.ldsShort (fieldReg4 w) (fieldAddr7 w))
  else some (.stsShort (fieldAddr7 w) (fieldReg4 w))

/-- `1001 000d dddd nnnn`: the loads, by nnnn (R107). -/
def decodeLoads (w w2 : Word) : Option Instr :=
  if w.extractLsb' 0 4 = 0x0#4 then some (.lds (fieldReg w) w2)
  else if w.extractLsb' 0 4 = 0x1#4 then some (.ldZInc (fieldReg w))
  else if w.extractLsb' 0 4 = 0x2#4 then some (.ldZDec (fieldReg w))
  else if w.extractLsb' 0 4 = 0x4#4 then some (.lpmZ (fieldReg w))
  else if w.extractLsb' 0 4 = 0x5#4 then some (.lpmZInc (fieldReg w))
  else if w.extractLsb' 0 4 = 0x6#4 then some (.elpmZ (fieldReg w))
  else if w.extractLsb' 0 4 = 0x7#4 then some (.elpmZInc (fieldReg w))
  else if w.extractLsb' 0 4 = 0x9#4 then some (.ldYInc (fieldReg w))
  else if w.extractLsb' 0 4 = 0xA#4 then some (.ldYDec (fieldReg w))
  else if w.extractLsb' 0 4 = 0xC#4 then some (.ldX (fieldReg w))
  else if w.extractLsb' 0 4 = 0xD#4 then some (.ldXInc (fieldReg w))
  else if w.extractLsb' 0 4 = 0xE#4 then some (.ldXDec (fieldReg w))
  else if w.extractLsb' 0 4 = 0xF#4 then some (.pop (fieldReg w))
  else none

/-- `1001 001r rrrr nnnn`: the stores, by nnnn (R107). -/
def decodeStores (w w2 : Word) : Option Instr :=
  if w.extractLsb' 0 4 = 0x0#4 then some (.sts w2 (fieldReg w))
  else if w.extractLsb' 0 4 = 0x1#4 then some (.stZInc (fieldReg w))
  else if w.extractLsb' 0 4 = 0x2#4 then some (.stZDec (fieldReg w))
  else if w.extractLsb' 0 4 = 0x4#4 then some (.xch (fieldReg w))
  else if w.extractLsb' 0 4 = 0x9#4 then some (.stYInc (fieldReg w))
  else if w.extractLsb' 0 4 = 0xA#4 then some (.stYDec (fieldReg w))
  else if w.extractLsb' 0 4 = 0xC#4 then some (.stX (fieldReg w))
  else if w.extractLsb' 0 4 = 0xD#4 then some (.stXInc (fieldReg w))
  else if w.extractLsb' 0 4 = 0xE#4 then some (.stXDec (fieldReg w))
  else if w.extractLsb' 0 4 = 0xF#4 then some (.push (fieldReg w))
  else none

/-- `1001 010x xxxx 1000`: BSET, BCLR and the fixed group, by bits 8…4 (R107). -/
def decodeFixed8 (w : Word) : Option Instr :=
  if w.extractLsb' 7 2 = 0b00#2 then some (.bset (fieldFlag w))
  else if w.extractLsb' 7 2 = 0b01#2 then some (.bclr (fieldFlag w))
  else if w.extractLsb' 4 4 = 0x0#4 then some .ret
  else if w.extractLsb' 4 4 = 0x1#4 then some .reti
  else if w.extractLsb' 4 4 = 0x8#4 then some .sleep
  else if w.extractLsb' 4 4 = 0x9#4 then some .brk
  else if w.extractLsb' 4 4 = 0xA#4 then some .wdr
  else if w.extractLsb' 4 4 = 0xC#4 then some .lpm
  else if w.extractLsb' 4 4 = 0xD#4 then some .elpm
  else if w.extractLsb' 4 4 = 0xE#4 then some .spm
  else if w.extractLsb' 4 4 = 0xF#4 then some .spmZInc
  else none

/-- `1001 010x xxxx 1001`: the indirect jumps and calls, by bits 8…4 (R107). -/
def decodeFixed9 (w : Word) : Option Instr :=
  if w.extractLsb' 4 5 = 0b00000#5 then some .ijmp
  else if w.extractLsb' 4 5 = 0b00001#5 then some .eijmp
  else if w.extractLsb' 4 5 = 0b10000#5 then some .icall
  else if w.extractLsb' 4 5 = 0b10001#5 then some .eicall
  else none

/-- `1001 010d dddd nnnn`: the one-register group, JMP, CALL and the fixed group, by nnnn (R107). -/
def decodeOneReg (w w2 : Word) : Option Instr :=
  if w.extractLsb' 0 4 = 0x0#4 then some (.com (fieldReg w))
  else if w.extractLsb' 0 4 = 0x1#4 then some (.neg (fieldReg w))
  else if w.extractLsb' 0 4 = 0x2#4 then some (.swap (fieldReg w))
  else if w.extractLsb' 0 4 = 0x3#4 then some (.inc (fieldReg w))
  else if w.extractLsb' 0 4 = 0x5#4 then some (.asr (fieldReg w))
  else if w.extractLsb' 0 4 = 0x6#4 then some (.lsr (fieldReg w))
  else if w.extractLsb' 0 4 = 0x7#4 then some (.ror (fieldReg w))
  else if w.extractLsb' 0 4 = 0x8#4 then decodeFixed8 w
  else if w.extractLsb' 0 4 = 0x9#4 then decodeFixed9 w
  else if w.extractLsb' 0 4 = 0xA#4 then some (.dec (fieldReg w))
  else if w.extractLsb' 1 3 = 0b110#3 then some (.jmp (fieldAbs22 w w2))
  else if w.extractLsb' 1 3 = 0b111#3 then some (.call (fieldAbs22 w w2))
  else none

/-- `1001 …` (R107). -/
def decode9 (w w2 : Word) : Option Instr :=
  if w.extractLsb' 10 2 = 0b11#2 then some (.mul (fieldReg w) (fieldSrc w))
  else if w.extractLsb' 8 4 = 0x6#4 then some (.adiw (fieldPair w) (fieldImm6 w))
  else if w.extractLsb' 8 4 = 0x7#4 then some (.sbiw (fieldPair w) (fieldImm6 w))
  else if w.extractLsb' 8 4 = 0x8#4 then some (.cbi (fieldIo5 w) (fieldBit w))
  else if w.extractLsb' 8 4 = 0x9#4 then some (.sbic (fieldIo5 w) (fieldBit w))
  else if w.extractLsb' 8 4 = 0xA#4 then some (.sbi (fieldIo5 w) (fieldBit w))
  else if w.extractLsb' 8 4 = 0xB#4 then some (.sbis (fieldIo5 w) (fieldBit w))
  else if w.extractLsb' 9 3 = 0b000#3 then decodeLoads w w2
  else if w.extractLsb' 9 3 = 0b001#3 then decodeStores w w2
  else decodeOneReg w w2

/-- `1111 …`: BRBS, BRBC and the bit group, whose bit 3 must be 0 (R107). -/
def decode15 (w : Word) : Option Instr :=
  if w.extractLsb' 10 2 = 0b00#2 then some (.brbs (fieldBit w) (fieldRel7 w))
  else if w.extractLsb' 10 2 = 0b01#2 then some (.brbc (fieldBit w) (fieldRel7 w))
  else if w.extractLsb' 3 1 = 0b1#1 then none
  else if w.extractLsb' 9 2 = 0b00#2 then some (.bld (fieldReg w) (fieldBit w))
  else if w.extractLsb' 9 2 = 0b01#2 then some (.bst (fieldReg w) (fieldBit w))
  else if w.extractLsb' 9 2 = 0b10#2 then some (.sbrc (fieldReg w) (fieldBit w))
  else some (.sbrs (fieldReg w) (fieldBit w))

/-- The opcode map of R107 by the top four bits of the first word `w`; `w2` is the word after it, which only the
two-word instructions use. `none` is a word that matches no pattern (R116). -/
def decode (core : CoreKind) (w w2 : Word) : Option Instr :=
  if w.extractLsb' 12 4 = 0x0#4 then decode0 w
  else if w.extractLsb' 12 4 = 0x1#4 then decode1 w
  else if w.extractLsb' 12 4 = 0x2#4 then decode2 w
  else if w.extractLsb' 12 4 = 0x3#4 then some (.cpi (fieldReg4 w) (fieldImm8 w))
  else if w.extractLsb' 12 4 = 0x4#4 then some (.sbci (fieldReg4 w) (fieldImm8 w))
  else if w.extractLsb' 12 4 = 0x5#4 then some (.subi (fieldReg4 w) (fieldImm8 w))
  else if w.extractLsb' 12 4 = 0x6#4 then some (.ori (fieldReg4 w) (fieldImm8 w))
  else if w.extractLsb' 12 4 = 0x7#4 then some (.andi (fieldReg4 w) (fieldImm8 w))
  else if w.extractLsb' 12 4 = 0x8#4 then
    (match core with
      | .classic => decodeDisp w
      | .reduced => decode8Reduced w)
  else if w.extractLsb' 12 4 = 0x9#4 then decode9 w w2
  else if w.extractLsb' 12 4 = 0xA#4 then
    (match core with
      | .classic => decodeDisp w
      | .reduced => decode10Reduced w)
  else if w.extractLsb' 12 4 = 0xB#4 then
    (if w.extractLsb' 11 1 = 0b0#1 then some (.inp (fieldReg w) (fieldIo6 w))
     else some (.out (fieldIo6 w) (fieldReg w)))
  else if w.extractLsb' 12 4 = 0xC#4 then some (.rjmp (fieldRel12 w))
  else if w.extractLsb' 12 4 = 0xD#4 then some (.rcall (fieldRel12 w))
  else if w.extractLsb' 12 4 = 0xE#4 then some (.ldi (fieldReg4 w) (fieldImm8 w))
  else decode15 w

/-- Whether the device admits the instruction: its parameter of R7 holds (00_scope.md R8, 41_branch.md R203, R204,
R207, R208, 40_arithmetic_logic.md R173 … R178, 44_mcu_control.md R391). A word whose instruction is not admitted is
an undecodable word (R116). -/
def Device.admits (c : Device) : Instr → Bool
  | .mul _ _ | .muls _ _ | .mulsu _ _ | .fmul _ _ | .fmuls _ _ | .fmulsu _ _ => c.hasMul
  | .jmp _ | .call _ => c.hasJmpCall
  | .eijmp | .eicall => c.hasEind
  | .elpm | .elpmZ _ | .elpmZInc _ => c.hasRampz
  | .xch _ => c.hasXch
  | .spmZInc => c.hasSpmZPlus
  | .brk => c.hasBreak
  | .lds _ _ | .sts _ _ | .lddY _ _ | .lddZ _ _ | .stdY _ _ | .stdZ _ _ => decide (c.core = .classic)
  | .ldsShort _ _ | .stsShort _ _ => decide (c.core = .reduced)
  | _ => true

/-- Why a sequence of bytes is no instruction. -/
inductive DecodeError where
  /-- Fewer bytes than the instruction's words take. -/
  | truncated
  /-- The first word matches no pattern of R107 (R116). -/
  | undecodable (w : Word)
deriving DecidableEq, Repr

/-- The decoder on bytes as program memory stores them: each word's low byte first (20_memory.md R75), the first
word at the lower address (R76 item 3). Total on any bytes; answers the instruction and the rest. -/
def decodeBytes (core : CoreKind) : List Byte → Except DecodeError (Instr × List Byte)
  | b0 :: b1 :: rest =>
    let w := wordOf b1 b0
    if isTwoWord w then
      match rest with
      | b2 :: b3 :: rest' =>
        match decode core w (wordOf b3 b2) with
        | some i => .ok (i, rest')
        | none => .error (.undecodable w)
      | _ => .error .truncated
    else
      match decode core w 0 with
      | some i => .ok (i, rest)
      | none => .error (.undecodable w)
  | _ => .error .truncated

/-- The instruction the decoder reads from the bits `w` of an opcode-table row: bit 0 is the least significant bit
of the first word, the second word is bits 31…16, every bit at or above `nbits` is 0. The words are laid out as
bytes and given to `decodeBytes`. The core is the one the table's ATmega32 column names (classic). -/
def decodeTableWord (nbits w : Nat) : Option Instr :=
  let v : BitVec 32 := BitVec.ofNat 32 (w % 2 ^ nbits)
  match decodeBytes .classic [v.extractLsb' 0 8, v.extractLsb' 8 8, v.extractLsb' 16 8, v.extractLsb' 24 8] with
  | .ok (i, _) => some i
  | .error _ => none

/-! The encoder (R102, R106, R108). -/

/-- Format RR: `oooo oord dddd rrrr`. -/
def encRR (op : BitVec 6) (d r : Reg) : Word := op ++ r.extractLsb' 4 1 ++ d ++ r.extractLsb' 0 4

/-- Format RI: `oooo KKKK dddd KKKK`. -/
def encRI (op : BitVec 4) (d : Reg) (K : Byte) : Word :=
  op ++ K.extractLsb' 4 4 ++ d.extractLsb' 0 4 ++ K.extractLsb' 0 4

/-- Formats R1 and LS: seven opcode bits, `d dddd`, four opcode bits. -/
def encR1 (op : BitVec 7) (d : Reg) (low : BitVec 4) : Word := op ++ d ++ low

/-- Format IW: `1001 011o KKdd KKKK`. -/
def encIW (op : BitVec 8) (d : Reg) (K : BitVec 6) : Word :=
  op ++ K.extractLsb' 4 2 ++ d.extractLsb' 1 2 ++ K.extractLsb' 0 4

/-- Format M3: `0000 0011 oddd orrr`. -/
def encM3 (o7 o3 : BitVec 1) (d r : Reg) : Word :=
  0b00000011#8 ++ o7 ++ d.extractLsb' 0 3 ++ o3 ++ r.extractLsb' 0 3

/-- Format BR: `1111 0okk kkkk ksss`. -/
def encBR (op : BitVec 6) (s : BitVec 3) (k : BitVec 7) : Word := op ++ k ++ s

/-- Format J22, both words: `1001 010k kkkk 11ok` and the low sixteen bits of k. -/
def encJ22 (o : BitVec 3) (k : PcAddr) : List Word :=
  [0b1001010#7 ++ k.extractLsb' 17 5 ++ o ++ k.extractLsb' 16 1, k.extractLsb' 0 16]

/-- Format RB: `1111 1oor rrrr 0bbb`. -/
def encRB (op : BitVec 7) (r : Reg) (b : BitVec 3) : Word := op ++ r ++ 0b0#1 ++ b

/-- Format AB: `1001 10oo AAAA Abbb`. -/
def encAB (op : BitVec 8) (A : BitVec 5) (b : BitVec 3) : Word := op ++ A ++ b

/-- Format IO: `1011 oAAr rrrr AAAA`. -/
def encIO (op : BitVec 5) (A : IoAddr) (r : Reg) : Word := op ++ A.extractLsb' 4 2 ++ r ++ A.extractLsb' 0 4

/-- Format LQ: `10q0 qqor rrrr oqqq`. -/
def encLQ (store y : BitVec 1) (q : BitVec 6) (r : Reg) : Word :=
  0b10#2 ++ q.extractLsb' 5 1 ++ 0b0#1 ++ q.extractLsb' 3 2 ++ store ++ r ++ y ++ q.extractLsb' 0 3

/-- Format LK7: `1010 okkk dddd kkkk`. -/
def encLK7 (op : BitVec 5) (k : BitVec 7) (d : Reg) : Word :=
  op ++ k.extractLsb' 4 3 ++ d.extractLsb' 0 4 ++ k.extractLsb' 0 4

/-- Format SB: `1001 0100 osss 1000`. -/
def encSB (o : BitVec 1) (s : BitVec 3) : Word := 0b10010100#8 ++ o ++ s ++ 0b1000#4

/-- The words of an instruction (R106, R108; alias rows by R114). -/
def encode : Instr → List Word
  | .add d r => [encRR 0b000011#6 d r]
  | .adc d r => [encRR 0b000111#6 d r]
  | .adiw d K => [encIW 0b10010110#8 d K]
  | .sub d r => [encRR 0b000110#6 d r]
  | .subi d K => [encRI 0b0101#4 d K]
  | .sbc d r => [encRR 0b000010#6 d r]
  | .sbci d K => [encRI 0b0100#4 d K]
  | .sbiw d K => [encIW 0b10010111#8 d K]
  | .and d r => [encRR 0b001000#6 d r]
  | .andi d K => [encRI 0b0111#4 d K]
  | .or d r => [encRR 0b001010#6 d r]
  | .ori d K => [encRI 0b0110#4 d K]
  | .eor d r => [encRR 0b001001#6 d r]
  | .com d => [encR1 0b1001010#7 d 0b0000#4]
  | .neg d => [encR1 0b1001010#7 d 0b0001#4]
  | .sbr d K => [encRI 0b0110#4 d K]
  | .cbr d K => [encRI 0b0111#4 d (0xFF#8 - K)]
  | .inc d => [encR1 0b1001010#7 d 0b0011#4]
  | .dec d => [encR1 0b1001010#7 d 0b1010#4]
  | .tst d => [encRR 0b001000#6 d d]
  | .clr d => [encRR 0b001001#6 d d]
  | .ser d => [encRI 0b1110#4 d 0xFF#8]
  | .mul d r => [encRR 0b100111#6 d r]
  | .muls d r => [0b00000010#8 ++ d.extractLsb' 0 4 ++ r.extractLsb' 0 4]
  | .mulsu d r => [encM3 0b0#1 0b0#1 d r]
  | .fmul d r => [encM3 0b0#1 0b1#1 d r]
  | .fmuls d r => [encM3 0b1#1 0b0#1 d r]
  | .fmulsu d r => [encM3 0b1#1 0b1#1 d r]
  | .rjmp k => [0b1100#4 ++ k]
  | .ijmp => [0b1001010000001001#16]
  | .eijmp => [0b1001010000011001#16]
  | .jmp k => encJ22 0b110#3 k
  | .rcall k => [0b1101#4 ++ k]
  | .icall => [0b1001010100001001#16]
  | .eicall => [0b1001010100011001#16]
  | .call k => encJ22 0b111#3 k
  | .ret => [0b1001010100001000#16]
  | .reti => [0b1001010100011000#16]
  | .cpse d r => [encRR 0b000100#6 d r]
  | .cp d r => [encRR 0b000101#6 d r]
  | .cpc d r => [encRR 0b000001#6 d r]
  | .cpi d K => [encRI 0b0011#4 d K]
  | .sbrc r b => [encRB 0b1111110#7 r b]
  | .sbrs r b => [encRB 0b1111111#7 r b]
  | .sbic A b => [encAB 0b10011001#8 A b]
  | .sbis A b => [encAB 0b10011011#8 A b]
  | .brbs s k => [encBR 0b111100#6 s k]
  | .brbc s k => [encBR 0b111101#6 s k]
  | .breq k => [encBR 0b111100#6 0b001#3 k]
  | .brne k => [encBR 0b111101#6 0b001#3 k]
  | .brcs k => [encBR 0b111100#6 0b000#3 k]
  | .brcc k => [encBR 0b111101#6 0b000#3 k]
  | .brsh k => [encBR 0b111101#6 0b000#3 k]
  | .brlo k => [encBR 0b111100#6 0b000#3 k]
  | .brmi k => [encBR 0b111100#6 0b010#3 k]
  | .brpl k => [encBR 0b111101#6 0b010#3 k]
  | .brge k => [encBR 0b111101#6 0b100#3 k]
  | .brlt k => [encBR 0b111100#6 0b100#3 k]
  | .brhs k => [encBR 0b111100#6 0b101#3 k]
  | .brhc k => [encBR 0b111101#6 0b101#3 k]
  | .brts k => [encBR 0b111100#6 0b110#3 k]
  | .brtc k => [encBR 0b111101#6 0b110#3 k]
  | .brvs k => [encBR 0b111100#6 0b011#3 k]
  | .brvc k => [encBR 0b111101#6 0b011#3 k]
  | .brie k => [encBR 0b111100#6 0b111#3 k]
  | .brid k => [encBR 0b111101#6 0b111#3 k]
  | .mov d r => [encRR 0b001011#6 d r]
  | .movw d r => [0b00000001#8 ++ d.extractLsb' 1 4 ++ r.extractLsb' 1 4]
  | .ldi d K => [encRI 0b1110#4 d K]
  | .lds d k => [encR1 0b1001000#7 d 0b0000#4, k]
  | .ldsShort d k => [encLK7 0b10100#5 k d]
  | .ldX d => [encR1 0b1001000#7 d 0b1100#4]
  | .ldXInc d => [encR1 0b1001000#7 d 0b1101#4]
  | .ldXDec d => [encR1 0b1001000#7 d 0b1110#4]
  | .ldY d => [encR1 0b1000000#7 d 0b1000#4]
  | .ldYInc d => [encR1 0b1001000#7 d 0b1001#4]
  | .ldYDec d => [encR1 0b1001000#7 d 0b1010#4]
  | .lddY d q => [encLQ 0b0#1 0b1#1 q d]
  | .ldZ d => [encR1 0b1000000#7 d 0b0000#4]
  | .ldZInc d => [encR1 0b1001000#7 d 0b0001#4]
  | .ldZDec d => [encR1 0b1001000#7 d 0b0010#4]
  | .lddZ d q => [encLQ 0b0#1 0b0#1 q d]
  | .sts k r => [encR1 0b1001001#7 r 0b0000#4, k]
  | .stsShort k r => [encLK7 0b10101#5 k r]
  | .stX r => [encR1 0b1001001#7 r 0b1100#4]
  | .stXInc r => [encR1 0b1001001#7 r 0b1101#4]
  | .stXDec r => [encR1 0b1001001#7 r 0b1110#4]
  | .stY r => [encR1 0b1000001#7 r 0b1000#4]
  | .stYInc r => [encR1 0b1001001#7 r 0b1001#4]
  | .stYDec r => [encR1 0b1001001#7 r 0b1010#4]
  | .stdY q r => [encLQ 0b1#1 0b1#1 q r]
  | .stZ r => [encR1 0b1000001#7 r 0b0000#4]
  | .stZInc r => [encR1 0b1001001#7 r 0b0001#4]
  | .stZDec r => [encR1 0b1001001#7 r 0b0010#4]
  | .stdZ q r => [encLQ 0b1#1 0b0#1 q r]
  | .lpm => [0b1001010111001000#16]
  | .lpmZ d => [encR1 0b1001000#7 d 0b0100#4]
  | .lpmZInc d => [encR1 0b1001000#7 d 0b0101#4]
  | .elpm => [0b1001010111011000#16]
  | .elpmZ d => [encR1 0b1001000#7 d 0b0110#4]
  | .elpmZInc d => [encR1 0b1001000#7 d 0b0111#4]
  | .spm => [0b1001010111101000#16]
  | .spmZInc => [0b1001010111111000#16]
  | .inp d A => [encIO 0b10110#5 A d]
  | .out A r => [encIO 0b10111#5 A r]
  | .push r => [encR1 0b1001001#7 r 0b1111#4]
  | .pop d => [encR1 0b1001000#7 d 0b1111#4]
  | .xch d => [encR1 0b1001001#7 d 0b0100#4]
  | .lsl d => [encRR 0b000011#6 d d]
  | .lsr d => [encR1 0b1001010#7 d 0b0110#4]
  | .rol d => [encRR 0b000111#6 d d]
  | .ror d => [encR1 0b1001010#7 d 0b0111#4]
  | .asr d => [encR1 0b1001010#7 d 0b0101#4]
  | .swap d => [encR1 0b1001010#7 d 0b0010#4]
  | .bset s => [encSB 0b0#1 s]
  | .bclr s => [encSB 0b1#1 s]
  | .sbi A b => [encAB 0b10011010#8 A b]
  | .cbi A b => [encAB 0b10011000#8 A b]
  | .bst d b => [encRB 0b1111101#7 d b]
  | .bld d b => [encRB 0b1111100#7 d b]
  | .sec => [encSB 0b0#1 0b000#3]
  | .clc => [encSB 0b1#1 0b000#3]
  | .sen => [encSB 0b0#1 0b010#3]
  | .cln => [encSB 0b1#1 0b010#3]
  | .sez => [encSB 0b0#1 0b001#3]
  | .clz => [encSB 0b1#1 0b001#3]
  | .sei => [encSB 0b0#1 0b111#3]
  | .cli => [encSB 0b1#1 0b111#3]
  | .ses => [encSB 0b0#1 0b100#3]
  | .cls => [encSB 0b1#1 0b100#3]
  | .sev => [encSB 0b0#1 0b011#3]
  | .clv => [encSB 0b1#1 0b011#3]
  | .setT => [encSB 0b0#1 0b110#3]
  | .clt => [encSB 0b1#1 0b110#3]
  | .seh => [encSB 0b0#1 0b101#3]
  | .clh => [encSB 0b1#1 0b101#3]
  | .brk => [0b1001010110011000#16]
  | .nop => [0b0000000000000000#16]
  | .sleep => [0b1001010110001000#16]
  | .wdr => [0b1001010110101000#16]

/-- The base instruction an alias spells on a core (R109, R114); every other instruction is its own base. On a
reduced core LD and ST with Y or Z are base instructions (42_data_transfer.md R269, R117). -/
def Instr.base (core : CoreKind) : Instr → Instr
  | .sbr d K => .ori d K
  | .cbr d K => .andi d (0xFF#8 - K)
  | .tst d => .and d d
  | .clr d => .eor d d
  | .ser d => .ldi d 0xFF#8
  | .breq k => .brbs 1 k
  | .brne k => .brbc 1 k
  | .brcs k => .brbs 0 k
  | .brcc k => .brbc 0 k
  | .brsh k => .brbc 0 k
  | .brlo k => .brbs 0 k
  | .brmi k => .brbs 2 k
  | .brpl k => .brbc 2 k
  | .brge k => .brbc 4 k
  | .brlt k => .brbs 4 k
  | .brhs k => .brbs 5 k
  | .brhc k => .brbc 5 k
  | .brts k => .brbs 6 k
  | .brtc k => .brbc 6 k
  | .brvs k => .brbs 3 k
  | .brvc k => .brbc 3 k
  | .brie k => .brbs 7 k
  | .brid k => .brbc 7 k
  | .lsl d => .add d d
  | .rol d => .adc d d
  | .sec => .bset 0
  | .clc => .bclr 0
  | .sen => .bset 2
  | .cln => .bclr 2
  | .sez => .bset 1
  | .clz => .bclr 1
  | .sei => .bset 7
  | .cli => .bclr 7
  | .ses => .bset 4
  | .cls => .bclr 4
  | .sev => .bset 3
  | .clv => .bclr 3
  | .setT => .bset 6
  | .clt => .bclr 6
  | .seh => .bset 5
  | .clh => .bclr 5
  | .ldY d => match core with | .classic => .lddY d 0 | .reduced => .ldY d
  | .ldZ d => match core with | .classic => .lddZ d 0 | .reduced => .ldZ d
  | .stY r => match core with | .classic => .stdY 0 r | .reduced => .stY r
  | .stZ r => match core with | .classic => .stdZ 0 r | .reduced => .stZ r
  | i => i

end Sys2Proof
end

