-- ==== Sys2Proof/Machine/State.lean ====
section
/-! DEFINITION. The state of the machine as plain data (10_state.md R30 … R52), its reset value, and the reasons a
step stops. -/

namespace Sys2Proof.Machine

/-- The machine stops: the model outcomes the spec calls `fault` (60_exceptions.md R400). None is an architectural event. -/
inductive Fault where
  /-- Raised by the fetch: the word matches no instruction the device admits (30_encoding.md R116, D9). Safe: the
  spec forbids treating it as a NOP and gives no effect. -/
  | undecodable (w : Word)
  /-- Raised by `memRead`: the SRAM byte at this address was never written (10_state.md R52, D7). Safe: the model
  stops where the hardware goes on with an unknown byte. -/
  | sramUnwritten (a : Nat)
deriving DecidableEq, Repr

/-- The spec gives the step no meaning: its outcome `refuse` (60_exceptions.md R400). Each is safe: a proof must
exclude the case. -/
inductive Refusal where
  /-- Raised by exec for an instruction without a meaning. Safe. -/
  | notModelled (mnemonic : String)
  /-- Raised by the fetch: a program word at or beyond `FLASH_WORDS` (10_state.md R35, 20_memory.md R89, D2). Safe. -/
  | fetchBeyondFlash (w : Nat)
  /-- Raised by a skip when a word to be skipped lies at or beyond `FLASH_WORDS` (41_branch.md R239, D2, D27). Safe. -/
  | skipBeyondFlash (w : Nat)
  /-- Raised by JMP and CALL: the target is at or beyond 2^PC_BITS (41_branch.md R204, R208, D2). Safe. -/
  | targetBeyondPc (k : Nat)
  /-- Raised by LPM and ELPM: the byte's word lies at or beyond `FLASH_WORDS` (20_memory.md R75, D2). Safe. -/
  | programReadBeyondFlash (b : Nat)
  /-- Raised by `memRead` and `memWrite`: a data address above `RAMEND` (20_memory.md R73, D3). Safe. -/
  | dataAddressBeyondRam (a : Nat)
  /-- Raised by `memRead` and `memWrite`: a data address after the I/O range and below `RAMSTART`, on a device whose
  SRAM starts later (10_state.md R48, R73, D3; log entry 31). Safe. -/
  | dataAddressBelowRam (a : Nat)
  /-- Raised by LD, ST, LPM, ELPM with a changed pointer whose pair holds the data register (42_data_transfer.md R303
  item 2, D20). Safe. -/
  | dataRegisterInPointer
  /-- Raised by LD and ST with a changed pointer whose effective address is one of the pointer's own registers
  (R303 item 3, D20). Safe. -/
  | pointerAddressesItself
  /-- Raised by a stack access at the data address of SPL or SPH (R303 item 3, D20). Safe. -/
  | stackOnStackPointer
  /-- Raised by SPM: five operations and no selector (42_data_transfer.md R296, D16). Safe. -/
  | spm
  /-- Raised by SPM Z+: as SPM, and no increment given (R297, D16). Safe. -/
  | spmZPlus
  /-- Raised by a write of EECR that sets EEWE and EERE together (60_exceptions.md R413, D39). Safe. -/
  | eeweWithEere
  /-- Raised by setting EEWE in the second to fourth instruction after EEMWE (R415, D36). Safe. -/
  | eeweLate
  /-- Raised by setting EEMWE inside its window (R413, D36). Safe. -/
  | eemweReopened
  /-- Raised by setting EEMWE and EEWE in one write, the window closed (R413, D37). Safe. -/
  | eeweWithEemwe
  /-- Raised by setting EERE during a write (R413, R414, D39). Safe. -/
  | eereWhileBusy
  /-- Raised by writing EEARL, EEARH or EEDR during a write (R411, R412, D40). Safe. -/
  | eepromRegisterWhileBusy
  /-- Raised by an EEPROM access with EEAR at or beyond `EEPROM_BYTES` (R411, D33). Safe. -/
  | eepromAddressBeyondEnd (a : Nat)
deriving DecidableEq, Repr

/-- A fault or a refusal, inside a meaning. -/
inductive Stop where
  | fault (f : Fault)
  | refused (r : Refusal)
deriving DecidableEq, Repr

/-- What a shared operation answers: a value, or the reason the step stops. -/
abbrev Res (α : Type) := Except Stop α

/-- The outcome of a meaning. -/
abbrev StepOutcome (σ : Type) := Host.Outcome σ Fault Refusal

/-- `eemwe_window` of 60_exceptions.md R413: closed, or open for 0 … 4 instructions. -/
inductive EemweWindow where
  | closed
  | opened (age : Fin 5)
deriving DecidableEq, Repr

/-- An EEPROM write in progress (R415, R417): the latched `wr_addr` and `wr_data`, and the processor steps left
before the programmer's step (the model's own field, log entry 10). -/
structure EeWrite where
  addr : BitVec 10
  data : Byte
  wait : Nat
deriving DecidableEq, Repr

/-- One entry of the record of writes to undescribed I/O registers (10_state.md R45): a whole byte, or the single
bit of SBI and CBI (43_bit_and_bit_test.md R350). -/
inductive IoWrite where
  | byte (A : IoAddr) (v : Byte)
  | bit (A : IoAddr) (b : BitVec 3) (v : Bool)
deriving DecidableEq, Repr

/-- Memory: (address, byte) pairs in rising address order. -/
abbrev Memory := List Host.Cell

/-- What an unlisted byte of program memory or EEPROM reads as: the erased value (44_mcu_control.md R392 for Flash;
PRESUMED for the EEPROM; log entry 7). An unlisted SRAM byte holds no value (log entry 6). -/
def erasedByte : Byte := 0xFF

/-- The whole state (10_state.md). INVENTORY.md, heading State, gives each field's rule and reset value. -/
structure State where
  /-- The device parameters (00_scope.md R7); no step changes them. -/
  dev : Device
  /-- R0 … R31 (R30). -/
  regs : Vector Byte 32
  /-- The program counter, a word address (R34). -/
  pc : PcAddr
  /-- SREG (R36, R38). -/
  sreg : Byte
  /-- SPH:SPL (R39). -/
  sp : Word
  /-- RAMPZ (R42). -/
  rampz : Byte
  /-- EIND (R43). -/
  eind : Byte
  /-- GPIOR0 … GPIOR2 (R44). -/
  gpior : Vector Byte 3
  /-- EEARH[1:0]:EEARL (60_exceptions.md R411). -/
  eear : BitVec 10
  /-- EEDR (R412). -/
  eedr : Byte
  /-- EECR.EERIE (R413). -/
  eerie : Bool
  /-- EEMWE and its window (R413, R415). -/
  window : EemweWindow
  /-- EECR.EEWE = `busy`, with the latched write (R413, R417). -/
  eeWrite : Option EeWrite
  /-- The EEPROM, by byte address (R49). -/
  eeprom : Memory
  /-- Internal SRAM, by data address (R48). -/
  sram : Memory
  /-- Program memory, by byte address, each word's low byte at the even address (R47, 20_memory.md R75). -/
  flash : Memory
  /-- The one-instruction interrupt delay after SEI and RETI (60_exceptions.md R405). -/
  inhibit : Bool
  /-- The sleeping condition (44_mcu_control.md R393). -/
  sleeping : Bool
  /-- BREAK has ended the run (44_mcu_control.md R391, `stop("BREAK")`): the processor makes no further step (log
  entry 23). -/
  halted : Bool
  /-- The raised `irq[n]`, n ≠ 18, in rising order (60_exceptions.md R402). -/
  irq : List Nat
  /-- The record of writes to undescribed I/O registers, oldest first (R45, 70_reset_and_hazards.md R468). -/
  ioLog : List IoWrite
  /-- The model's own: how many free values have been drawn (log entry 12). -/
  draws : Nat
deriving DecidableEq, Repr

/-- The state at launch (70_reset_and_hazards.md R462, R468): the device, the program image and the EEPROM content
are the launch's, everything else is the reset state of 10_state.md R52. The registers the spec states no reset value
for hold the family's zero (PRESUMED, log entry 1); EEAR 0 and not busy are chosen (DESIGN CHOICE, log
entries 4, 5). -/
def State.launch (dev : Device) (flash eeprom : Memory) : State where
  dev := dev
  regs := Vector.replicate 32 0
  pc := 0
  sreg := 0
  sp := 0
  rampz := 0
  eind := 0
  gpior := Vector.replicate 3 0
  eear := 0
  eedr := 0
  eerie := false
  window := .closed
  eeWrite := none
  eeprom := eeprom
  sram := []
  flash := flash
  inhibit := false
  sleeping := false
  halted := false
  irq := []
  ioLog := []
  draws := 0

/-- The machine right after reset (R52, R461, R462): the ATmega32 with erased memories. -/
def State.reset : State := State.launch Device.atmega32 [] []

end Sys2Proof.Machine
end

