-- ==== Sys2Proof/Machine/Memory.lean ====
section
/-! DEFINITION. Memory: lookup, write and the canonical form (addresses strictly rising, no entry equal to what an
unlisted address reads as). -/

namespace Sys2Proof.Machine

/-- The byte listed at an address. -/
def Memory.get? : Memory → Nat → Option Byte
  | [], _ => none
  | (k, b) :: m, a => if a = k then some b else Memory.get? m a

/-- Lists `v` at `a`, in address order. -/
def Memory.put : Memory → Nat → Byte → Memory
  | [], a, v => [(a, v)]
  | (k, b) :: m, a, v =>
    if a < k then (a, v) :: (k, b) :: m
    else if a = k then (a, v) :: m
    else (k, b) :: Memory.put m a v

/-- Lists nothing at `a`. -/
def Memory.drop : Memory → Nat → Memory
  | [], _ => []
  | (k, b) :: m, a => if a = k then m else (k, b) :: Memory.drop m a

/-- The byte at an address of an erasable memory (Flash, EEPROM). -/
def Memory.read (m : Memory) (a : Nat) : Byte := (Memory.get? m a).getD erasedByte

/-- Writes a byte of an erasable memory: the erased value is not listed. -/
def Memory.write (m : Memory) (a : Nat) (v : Byte) : Memory :=
  if v = erasedByte then Memory.drop m a else Memory.put m a v

/-- Every listed address is above `k`, and they rise strictly. -/
def Memory.risesAbove : Nat → Memory → Bool
  | _, [] => true
  | k, (a, _) :: m => decide (k < a) && Memory.risesAbove a m

/-- The listed addresses rise strictly. -/
def Memory.rising : Memory → Bool
  | [] => true
  | (a, _) :: m => Memory.risesAbove a m

/-- The canonical form: addresses strictly rising within `[lo, hi)`, no entry equal to what an unlisted address
reads as (`blank`: `none` where it holds no value). -/
def Memory.wf (blank : Option Byte) (lo hi : Nat) (m : Memory) : Bool :=
  Memory.rising m && m.all (fun c => decide (lo ≤ c.1) && decide (c.1 < hi) && decide (some c.2 ≠ blank))

end Sys2Proof.Machine
end

