-- ==== Sys2Proof/Machine/Ops.lean ====
section
/-! DEFINITION. The named operations over registers, the program counter, the I/O space, the data space, the stack and
program memory; taking an interrupt and returning from one. -/

namespace Sys2Proof

/-! What the device parameters determine. -/

/-- `PC_BITS` (00_scope.md R6). -/
def Device.pcBits (c : Device) : Nat :=
  match c.pcClass with
  | .bits16 => 16
  | .bits22 => 22

/-- Modulo 2^PC_BITS (R35). -/
def Device.wrap (c : Device) (a : PcAddr) : PcAddr :=
  match c.pcClass with
  | .bits16 => a &&& 0xFFFF#22
  | .bits22 => a

/-- Whether RAMPZ bit `k` addresses bytes of the device's program memory: it does when some byte address with bit
16 + k set lies below 2 · FLASH_WORDS. The bits that do are the low ⌈log2(FLASH_WORDS·2)⌉ − 16 (D31). -/
def Device.rampzBit (c : Device) (k : Nat) : Bool := decide (2 ^ (16 + k) < 2 * c.flashWords)

/-- The implemented bits of RAMPZ. -/
def Device.rampzMask (c : Device) : Byte :=
  BitVec.ofBool (c.rampzBit 7) ++ BitVec.ofBool (c.rampzBit 6) ++ BitVec.ofBool (c.rampzBit 5) ++
    BitVec.ofBool (c.rampzBit 4) ++ BitVec.ofBool (c.rampzBit 3) ++ BitVec.ofBool (c.rampzBit 2) ++
    BitVec.ofBool (c.rampzBit 1) ++ BitVec.ofBool (c.rampzBit 0)

/-- The implemented bits of EIND: PC_BITS − 16 (D31). -/
def Device.eindMask (c : Device) : Byte :=
  match c.pcClass with
  | .bits16 => 0x00
  | .bits22 => 0x3F

/-- What stands at an I/O address. -/
inductive IoReg where
  | sreg
  | spl
  | sph
  | rampz
  | eind
  | eearl
  | eearh
  | eedr
  | eecr
  | gpior (k : Fin 3)
  | undescribed
deriving DecidableEq, Repr

/-- The register at an I/O address: SREG at 0x3F, the others at `io_addr` (R74, D25); RAMPZ and EIND only where the
device has them (D31); every other address is undescribed (10_state.md R45). -/
def Device.ioReg (c : Device) (A : IoAddr) : IoReg :=
  if A = 0x3F then .sreg
  else if A = c.splAddr then .spl
  else if A = c.sphAddr then .sph
  else if c.hasRampz = true ∧ A = c.rampzAddr then .rampz
  else if c.hasEind = true ∧ A = c.eindAddr then .eind
  else if A = c.eearlAddr then .eearl
  else if A = c.eearhAddr then .eearh
  else if A = c.eedrAddr then .eedr
  else if A = c.eecrAddr then .eecr
  else if c.gpiorAddrs[0]? = some A then .gpior 0
  else if c.gpiorAddrs[1]? = some A then .gpior 1
  else if c.gpiorAddrs[2]? = some A then .gpior 2
  else .undescribed

/-- The vector's word address: VECTOR_STRIDE · (n − 1) (R401, D28). -/
def Device.vector (c : Device) (n : Nat) : PcAddr := BitVec.ofNat 22 (c.vectorStride * (n - 1))

end Sys2Proof

namespace Sys2Proof.Machine

/-- The step is refused: the spec's outcome `refuse` (92_eei_decisions.md). -/
def refuse {α : Type} (r : Refusal) : Res α := .error (.refused r)

/-- The step faults: the spec's outcome `fault`. -/
def fault {α : Type} (f : Fault) : Res α := .error (.fault f)

/-- The outcome of a meaning from what its operations answer. -/
def finish : Res State → StepOutcome State
  | .ok s => .next s
  | .error (.fault f) => .fault f
  | .error (.refused r) => .refused r

/-! General registers (10_state.md R30, R32). -/

/-- `x[r]`. -/
def State.reg (s : State) (r : Reg) : Byte := s.regs[r.toNat]'r.isLt

/-- `x[r] <- v`. -/
def State.setReg (s : State) (r : Reg) (v : Byte) : State := { s with regs := s.regs.set r.toNat v r.isLt }

/-- The pair `x[r+1] : x[r]`. -/
def State.pair (s : State) (r : Reg) : Word := wordOf (s.reg (r + 1)) (s.reg r)

/-- `x[r+1] : x[r] <- v`. -/
def State.setPair (s : State) (r : Reg) (v : Word) : State := (s.setReg r (lowByte v)).setReg (r + 1) (highByte v)

/-- X = R27:R26, Y = R29:R28, Z = R31:R30 (R32), by the number of the low register. -/
inductive Ptr where
  | x
  | y
  | z
deriving DecidableEq, Repr

/-- The low register of an address register (R32). -/
def Ptr.low : Ptr → Reg
  | .x => 26
  | .y => 28
  | .z => 30

/-- The value of an address register. -/
def State.ptr (s : State) (p : Ptr) : Word := s.pair p.low

/-- Writes an address register. -/
def State.setPtr (s : State) (p : Ptr) (v : Word) : State := s.setPair p.low v

/-! Flags (10_state.md R36). -/

/-- The flags in SREG. -/
def State.flags (s : State) : Flags := flagsOf s.sreg

/-- Writes all eight flags. -/
def State.setFlags (s : State) (f : Flags) : State := { s with sreg := sregOf f }

/-- `SREG[b] <- v` (43_bit_and_bit_test.md R348, R349). -/
def State.setSregBit (s : State) (b : BitVec 3) (v : Bool) : State := { s with sreg := withBit s.sreg b v }

/-- The bit number of I in SREG. -/
def bitI : BitVec 3 := 7

/-! The program counter (R34, R35). -/

/-- `pc <- a`, modulo 2^PC_BITS. -/
def State.setPc (s : State) (a : PcAddr) : State := { s with pc := s.dev.wrap a }

/-- `pc <- pc + n`. -/
def State.advance (s : State) (n : PcAddr) : State := s.setPc (s.pc + n)

/-! RAMPZ and EIND (R42, R43; 92_eei_decisions.md D31). -/

/-- `RAMPZ : Z`, a byte address of program memory (R42). -/
def State.rampzZ (s : State) : ProgByteAddr := s.rampz ++ s.ptr .z

/-- `RAMPZ : Z <- b`; the unimplemented bits of RAMPZ stay 0 (42_data_transfer.md R295). -/
def State.setRampzZ (s : State) (b : ProgByteAddr) : State :=
  { s.setPtr .z (b.extractLsb' 0 16) with rampz := b.extractLsb' 16 8 &&& s.dev.rampzMask }

/-- `EIND[5:0] : Z` (41_branch.md R203, R207). -/
def State.eindZ (s : State) : PcAddr := s.eind.extractLsb' 0 6 ++ s.ptr .z

/-! The I/O space (20_memory.md R74). -/

/-- EECR.EEWE: a write is in progress (60_exceptions.md R413). -/
def State.busy (s : State) : Bool := s.eeWrite.isSome

/-- `0000 : EERIE : m : busy : 0` (R413). -/
def eecrByte (eerie m busy : Bool) : Byte :=
  0#4 ++ BitVec.ofBool eerie ++ BitVec.ofBool m ++ BitVec.ofBool busy ++ 0#1

/-- The value of EEMWE as read: 0 when the window is closed, 1 in `open(0)` and `open(1)`, a draw after that (R413,
D36). -/
def State.readEemwe (s : State) : Bool × State :=
  match s.window with
  | .closed => (false, s)
  | .opened n => if n.val ≤ 1 then (true, s) else (Config.eemweBit s.draws, { s with draws := s.draws + 1 })

/-- `IORead(A)` (R74). -/
def State.ioRead (s : State) (A : IoAddr) : Byte × State :=
  match s.dev.ioReg A with
  | .sreg => (s.sreg, s)
  | .spl => (lowByte s.sp, s)
  | .sph => (highByte s.sp, s)
  | .rampz => (s.rampz, s)
  | .eind => (s.eind, s)
  | .eearl => (s.eear.extractLsb' 0 8, s)
  | .eearh => (0#6 ++ s.eear.extractLsb' 8 2, s)
  | .eedr => (s.eedr, s)
  | .eecr => (eecrByte s.eerie s.readEemwe.1 s.busy, s.readEemwe.2)
  | .gpior k => (s.gpior[k.val], s)
  | .undescribed => (Config.ioByte s.draws, { s with draws := s.draws + 1 })

/-- `start_write()` (R415). The programmer's delay is drawn here (log entry 10). -/
def State.startWrite (s : State) : Res State :=
  if s.eear.toNat < s.dev.eepromBytes then
    .ok { s with
      eeWrite := some { addr := s.eear, data := s.eedr, wait := Config.programmerWait s.draws }
      window := .closed
      draws := s.draws + 1 }
  else refuse (.eepromAddressBeyondEnd s.eear.toNat)

/-- The arm `v[2] = 1` of `IOWrite(EECR, v)`: EEMWE is set (R413). -/
def State.setEemwe (s : State) : Res State :=
  match s.window with
  | .closed => .ok { s with window := .opened 0 }
  | .opened _ => refuse .eemweReopened

/-- The arm `v[1] = 1` of `IOWrite(EECR, v)`: EEWE is set, together with EEMWE when `v2` (R413). -/
def State.setEewe (s : State) (v2 : Bool) : Res State :=
  if s.busy then .ok s
  else if s.window = .opened 1 then s.startWrite
  else if s.window = .opened 2 ∨ s.window = .opened 3 ∨ s.window = .opened 4 then refuse .eeweLate
  else if v2 then refuse .eeweWithEemwe
  else .ok s

/-- The arm `v[0] = 1` of `IOWrite(EECR, v)`: EERE is set (R413, R414). -/
def State.setEere (s : State) : Res State :=
  if s.busy then refuse .eereWhileBusy
  else if s.eear.toNat < s.dev.eepromBytes then .ok { s with eedr := Memory.read s.eeprom s.eear.toNat }
  else refuse (.eepromAddressBeyondEnd s.eear.toNat)

/-- The middle part of `IOWrite(EECR, v)`: the bits EEWE and EEMWE (R413). -/
def State.writeEnables (s : State) (v : Byte) : Res State :=
  if bitOf v 1 then s.setEewe (bitOf v 2)
  else if bitOf v 2 then s.setEemwe
  else .ok { s with window := .closed }

/-- `IOWrite(EECR, v)` (R413). -/
def State.writeEecr (s : State) (v : Byte) : Res State :=
  if bitOf v 1 && bitOf v 0 then refuse .eeweWithEere
  else do
    let s ← State.writeEnables { s with eerie := bitOf v 3 } v
    if bitOf v 0 then s.setEere else .ok s

/-- `IOWriteBit(EECR, b, v)` (R413, last paragraph; D38). -/
def State.writeEecrBit (s : State) (b : BitVec 3) (v : Bool) : Res State :=
  if b = 3 then .ok { s with eerie := v }
  else if b = 2 then (if v then s.setEemwe else .ok { s with window := .closed })
  else if b = 1 then (if v then s.setEewe false else .ok s)
  else if b = 0 then (if v then s.setEere else .ok s)
  else .ok s

/-- A write of EEARL, EEARH or EEDR: refused during a write (R411, R412, D40). -/
def State.unlessBusy (s : State) (s' : State) : Res State :=
  if s.busy then refuse .eepromRegisterWhileBusy else .ok s'

/-- `IOWrite(A, v)` (R74). -/
def State.ioWrite (s : State) (A : IoAddr) (v : Byte) : Res State :=
  match s.dev.ioReg A with
  | .sreg => .ok { s with sreg := v }
  | .spl => .ok { s with sp := wordOf (highByte s.sp) v }
  | .sph => .ok { s with sp := wordOf v (lowByte s.sp) }
  | .rampz => .ok { s with rampz := v &&& s.dev.rampzMask }
  | .eind => .ok { s with eind := v &&& s.dev.eindMask }
  | .eearl => s.unlessBusy { s with eear := s.eear.extractLsb' 8 2 ++ v }
  | .eearh => s.unlessBusy { s with eear := v.extractLsb' 0 2 ++ s.eear.extractLsb' 0 8 }
  | .eedr => s.unlessBusy { s with eedr := v }
  | .eecr => s.writeEecr v
  | .gpior k => .ok { s with gpior := s.gpior.set k.val v }
  | .undescribed => .ok { s with ioLog := s.ioLog ++ [.byte A v] }

/-- `IOWriteBit(A, b, v)` (43_bit_and_bit_test.md R350, D38): bit `b` alone. For a plain-storage register it is the
write of the byte with that bit changed. -/
def State.ioWriteBit (s : State) (A : IoAddr) (b : BitVec 3) (v : Bool) : Res State :=
  match s.dev.ioReg A with
  | .eecr => s.writeEecrBit b v
  | .undescribed => .ok { s with ioLog := s.ioLog ++ [.bit A b v] }
  | _ => s.ioWrite A (withBit (s.ioRead A).1 b v)

/-! The data space (20_memory.md R71, R73). -/

/-- The I/O address of a data address 0x20 … 0x5F (R72). -/
def ioOfData (a : Word) : IoAddr := (a - 0x20#16).setWidth 6

/-- The data address of an I/O address (R72). -/
def dataOfIo (A : IoAddr) : Word := A.setWidth 16 + 0x20#16

/-- `MemRead(a, 1)` (R73). A byte of SRAM that nothing has written is a fault (10_state.md R52). SRAM holds the bytes
RAMSTART … RAMEND (10_state.md R48). -/
def State.memRead (s : State) (a : Word) : Res (Byte × State) :=
  if a.toNat ≤ 0x1F then .ok (s.reg (a.setWidth 5), s)
  else if a.toNat ≤ 0x5F then .ok (s.ioRead (ioOfData a))
  else if s.dev.ramEnd < a.toNat then refuse (.dataAddressBeyondRam a.toNat)
  else if a.toNat < s.dev.ramStart then refuse (.dataAddressBelowRam a.toNat)
  else
    match Memory.get? s.sram a.toNat with
    | some b => .ok (b, s)
    | none => fault (.sramUnwritten a.toNat)

/-- `MemWrite(a, 1, v)` (R73). -/
def State.memWrite (s : State) (a : Word) (v : Byte) : Res State :=
  if a.toNat ≤ 0x1F then .ok (s.setReg (a.setWidth 5) v)
  else if a.toNat ≤ 0x5F then s.ioWrite (ioOfData a) v
  else if s.dev.ramEnd < a.toNat then refuse (.dataAddressBeyondRam a.toNat)
  else if a.toNat < s.dev.ramStart then refuse (.dataAddressBelowRam a.toNat)
  else .ok { s with sram := Memory.put s.sram a.toNat v }

/-! The stack (10_state.md R40, R41). -/

/-- Whether a stack access at `a` falls on SPL or SPH (42_data_transfer.md R303 item 3). -/
def State.onStackPointer (s : State) (a : Word) : Bool :=
  decide (a = dataOfIo s.dev.splAddr) || decide (a = dataOfIo s.dev.sphAddr)

/-- `push8(v)`: store, then decrement (R40). -/
def State.push8 (s : State) (v : Byte) : Res State :=
  if s.onStackPointer s.sp then refuse .stackOnStackPointer
  else do
    let s ← s.memWrite s.sp v
    .ok { s with sp := s.sp - 1 }

/-- `pop8()`: increment, then load (R40). -/
def State.pop8 (s : State) : Res (Byte × State) :=
  if s.onStackPointer (s.sp + 1) then refuse .stackOnStackPointer
  else State.memRead { s with sp := s.sp + 1 } (s.sp + 1)

/-- `pushPC(a)`: low byte first, two bytes or three (R41). -/
def State.pushPc (s : State) (a : PcAddr) : Res State := do
  let s ← s.push8 (a.extractLsb' 0 8)
  let s ← s.push8 (a.extractLsb' 8 8)
  match s.dev.pcClass with
  | .bits16 => .ok s
  | .bits22 => s.push8 (0#2 ++ a.extractLsb' 16 6)

/-- `popPC()` (R41). -/
def State.popPc (s : State) : Res (PcAddr × State) :=
  match s.dev.pcClass with
  | .bits16 => do
    let (mid, s) ← s.pop8
    let (lo, s) ← s.pop8
    .ok (0#6 ++ mid ++ lo, s)
  | .bits22 => do
    let (hi, s) ← s.pop8
    let (mid, s) ← s.pop8
    let (lo, s) ← s.pop8
    .ok (hi.extractLsb' 0 6 ++ mid ++ lo, s)

/-! Program memory (20_memory.md R75). -/

/-- `ProgWord(w)`, or none at or beyond `FLASH_WORDS`. -/
def State.progWord? (s : State) (w : Nat) : Option Word :=
  if w < s.dev.flashWords then some (wordOf (Memory.read s.flash (2 * w + 1)) (Memory.read s.flash (2 * w)))
  else none

/-- `ProgByte(b)`: the low byte of word `b >> 1` when `b` is even, the high byte when it is odd; refused when that
word is at or beyond `FLASH_WORDS`. -/
def State.progByte (s : State) (b : ProgByteAddr) : Res Byte :=
  match s.progWord? (b.toNat / 2) with
  | some w => .ok (if b.toNat % 2 = 0 then lowByte w else highByte w)
  | none => refuse (.programReadBeyondFlash b.toNat)

/-! Interrupts (60_exceptions.md R404, R424). -/

/-- The source EE_RDY (R401, R416). -/
def eeRdySource : Nat := 18

/-- `irq[n] <- false`, for a stored source (R404). -/
def State.clearIrq (s : State) (n : Nat) : State :=
  if n = eeRdySource then s else { s with irq := s.irq.filter (fun m => m ≠ n) }

/-- `interrupt_entry(n)` (R404): the one exception entry of the machine. -/
def State.interruptEntry (s : State) (n : Nat) : Res State := do
  let s ← s.pushPc s.pc
  let s := (s.setSregBit bitI false).clearIrq n
  .ok ({ s with sleeping := false, window := .closed }.setPc (s.dev.vector n))

/-- The return from an interrupt (41_branch.md R210, R424): `pc <- popPC(); I <- 1; inhibit <- true`. -/
def State.returnFromInterrupt (s : State) : Res State := do
  let (a, s) ← s.popPc
  .ok { (s.setPc a).setSregBit bitI true with inhibit := true }

end Sys2Proof.Machine
end

