-- ==== Sys2Proof/Machine/Agents.lean ====
section
/-! DEFINITION. The agents that move between two processor steps (20_memory.md R84): the EEPROM programmer
(60_exceptions.md R417) and the environment that raises requests (R402); and the sampling of requests (R403, R405). -/

namespace Sys2Proof.Machine

/-- The programmer's move (R417): while a write is in progress it lets `wait` processor steps pass, then
`EEPROM[wr_addr] <- wr_data; busy <- false`. -/
def State.programmerMove (s : State) : State :=
  match s.eeWrite with
  | none => s
  | some w =>
    if w.wait = 0 then { s with eeprom := Memory.write s.eeprom w.addr.toNat w.data, eeWrite := none }
    else { s with eeWrite := some { w with wait := w.wait - 1 } }

/-- Puts `n` into a strictly rising list. -/
def insertRising (n : Nat) : List Nat → List Nat
  | [] => [n]
  | m :: l => if n < m then n :: m :: l else if n = m then m :: l else m :: insertRising n l

/-- The requests the environment raises in its move at counter `k` (R402): any of `ENV_IRQ`. -/
def raisedBy (envIrq : List Nat) (k : Nat) : List Nat := envIrq.filter (fun n => Config.envRaises k n)

/-- The environment's move (R402): it sets `irq[n] <- true` for any sources of `ENV_IRQ`, and clears none. With
`ENV_IRQ` empty nothing moves. -/
def State.environmentMove (s : State) : State :=
  if s.dev.envIrq = [] then s
  else { s with irq := (raisedBy s.dev.envIrq s.draws).foldr insertRising s.irq, draws := s.draws + 1 }

/-- The moves of the other agents between two processor steps (R405, last paragraph). -/
def State.agents (s : State) : State := s.programmerMove.environmentMove

/-- `irq[18] = (EERIE = 1 and busy = false)`, a level (R416). -/
def State.eeRdy (s : State) : Bool := s.eerie && !s.busy

/-- `irq[n]` (R402). -/
def State.pending (s : State) (n : Nat) : Bool := if n = eeRdySource then s.eeRdy else s.irq.contains n

/-- `min P`, where `P = { n in 2 … N_VECTORS : irq[n] }` (R403, R405). -/
def State.lowestPending (s : State) : Option Nat := (List.range' 2 (s.dev.nVectors - 1)).find? s.pending

/-- The source entered at this sampling point: `I = 1 and not h and P ≠ ∅` (R405). -/
def State.sampled (s : State) : Option Nat :=
  if bitOf s.sreg bitI && !s.inhibit then s.lowestPending else none

end Sys2Proof.Machine
end

