-- ==== Sys2Proof/Machine/Operands.lean ====
section
/-! DEFINITION. The operand forms: address registers with their changes and the refusals of 42_data_transfer.md R303,
the displaced and the 7-bit direct address, the targets of relative jumps, and the skip. -/

namespace Sys2Proof.Machine

/-- Writes result `res` to `x[d]` and the flags, then `pc <- pc + 1` (40_arithmetic_logic.md R140). -/
def State.alu (s : State) (d : Reg) (res : Byte) (f : Flags) : State := ((s.setReg d res).setFlags f).advance 1

/-- The same for a register pair (R149, R150). -/
def State.aluPair (s : State) (d : Reg) (res : Word) (f : Flags) : State := ((s.setPair d res).setFlags f).advance 1

/-- Only the flags are written, then `pc <- pc + 1` (41_branch.md R212). -/
def State.compare (s : State) (f : Flags) : State := (s.setFlags f).advance 1

/-- C as an operand of ADC, SBC, SBCI, CPC, ROL (10_state.md R37). -/
def State.carry (s : State) : Byte := (BitVec.ofBool s.flags.c).setWidth 8

/-! The flag functions under the device's configuration (00_scope.md R7 `flags`, D1): each is the default function of
Machine/Flags.lean with the device's replacements. -/

/-- `flags_add`. -/
def State.flagsAdd (s : State) (a b res : Byte) : Flags :=
  replaceFlags s.dev.flags .add ⟨a.setWidth 16, b.setWidth 16, res.setWidth 16⟩ s.flags
    (Sys2Proof.Machine.flagsAdd a b res s.flags)

/-- `flags_sub`. -/
def State.flagsSub (s : State) (a b res : Byte) : Flags :=
  replaceFlags s.dev.flags .sub ⟨a.setWidth 16, b.setWidth 16, res.setWidth 16⟩ s.flags
    (Sys2Proof.Machine.flagsSub a b res s.flags)

/-- `flags_sbc`. -/
def State.flagsSbc (s : State) (a b res : Byte) : Flags :=
  replaceFlags s.dev.flags .sbc ⟨a.setWidth 16, b.setWidth 16, res.setWidth 16⟩ s.flags
    (Sys2Proof.Machine.flagsSbc a b res s.flags)

/-- `flags_logic`. -/
def State.flagsLogic (s : State) (res : Byte) : Flags :=
  replaceFlags s.dev.flags .logic ⟨0, 0, res.setWidth 16⟩ s.flags (Sys2Proof.Machine.flagsLogic res s.flags)

/-- `flags_com`. -/
def State.flagsCom (s : State) (res : Byte) : Flags :=
  replaceFlags s.dev.flags .com ⟨0, 0, res.setWidth 16⟩ s.flags (Sys2Proof.Machine.flagsCom res s.flags)

/-- `flags_neg`. -/
def State.flagsNeg (s : State) (a res : Byte) : Flags :=
  replaceFlags s.dev.flags .neg ⟨a.setWidth 16, 0, res.setWidth 16⟩ s.flags
    (Sys2Proof.Machine.flagsNeg a res s.flags)

/-- `flags_inc`. -/
def State.flagsInc (s : State) (res : Byte) : Flags :=
  replaceFlags s.dev.flags .inc ⟨0, 0, res.setWidth 16⟩ s.flags (Sys2Proof.Machine.flagsInc res s.flags)

/-- `flags_dec`. -/
def State.flagsDec (s : State) (res : Byte) : Flags :=
  replaceFlags s.dev.flags .dec ⟨0, 0, res.setWidth 16⟩ s.flags (Sys2Proof.Machine.flagsDec res s.flags)

/-- `flags_adiw`. -/
def State.flagsAdiw (s : State) (a res : Word) : Flags :=
  replaceFlags s.dev.flags .adiw ⟨a, 0, res⟩ s.flags (Sys2Proof.Machine.flagsAdiw a res s.flags)

/-- `flags_sbiw`. -/
def State.flagsSbiw (s : State) (a res : Word) : Flags :=
  replaceFlags s.dev.flags .sbiw ⟨a, 0, res⟩ s.flags (Sys2Proof.Machine.flagsSbiw a res s.flags)

/-- `flags_mul`. -/
def State.flagsMul (s : State) (p : Word) : Flags :=
  replaceFlags s.dev.flags .mul ⟨0, 0, p⟩ s.flags (Sys2Proof.Machine.flagsMul p s.flags)

/-- `flags_fmul`. -/
def State.flagsFmul (s : State) (p res : Word) : Flags :=
  replaceFlags s.dev.flags .fmul ⟨p, 0, res⟩ s.flags (Sys2Proof.Machine.flagsFmul p res s.flags)

/-- `flags_shift`. -/
def State.flagsShift (s : State) (res : Byte) (cout : Bool) : Flags :=
  replaceFlags s.dev.flags .shift ⟨(BitVec.ofBool cout).setWidth 16, 0, res.setWidth 16⟩ s.flags
    (Sys2Proof.Machine.flagsShift res cout s.flags)

/-- The product of two values already extended to 16 bits (R173 … R175), to R1:R0. -/
def State.multiply (s : State) (a b : Word) : State := s.aluPair 0 (a * b) (s.flagsMul (a * b))

/-- The fractional product: shifted left by one (R176 … R178). -/
def State.multiplyFractional (s : State) (a b : Word) : State :=
  s.aluPair 0 ((a * b) <<< 1) (s.flagsFmul (a * b) ((a * b) <<< 1))

/-- Whether register `r` is a half of the address register `p` (R303 item 2). -/
def Ptr.holds (p : Ptr) (r : Reg) : Bool := decide (r = p.low) || decide (r = p.low + 1)

/-- Whether data address `ea` is one of the two registers of `p` (R303 item 3). -/
def Ptr.at (p : Ptr) (ea : Word) : Bool := decide (ea = p.low.setWidth 16) || decide (ea = p.low.setWidth 16 + 1)

/-- The refusals of LD and ST with post-increment or pre-decrement (R303 items 2 and 3, D20): data register `r`, effective
address `ea`. -/
def Ptr.check (p : Ptr) (r : Reg) (ea : Word) : Res Unit :=
  if p.holds r then refuse .dataRegisterInPointer
  else if p.at ea then refuse .pointerAddressesItself
  else .ok ()

/-- `x[d] <- MemRead(ea, 1); pc <- pc + n`. -/
def State.load (s : State) (d : Reg) (ea : Word) (n : PcAddr) : Res State := do
  let (v, s) ← s.memRead ea
  .ok ((s.setReg d v).advance n)

/-- `MemWrite(ea, 1, x[r]); pc <- pc + n`. -/
def State.store (s : State) (r : Reg) (ea : Word) (n : PcAddr) : Res State := do
  let s ← s.memWrite ea (s.reg r)
  .ok (s.advance n)

/-- LD Rd,P+ (R267, R270, R274): `ea <- P; x[d] <- MemRead(ea, 1); P <- ea + 1; pc <- pc + 1`. -/
def State.loadInc (s : State) (p : Ptr) (d : Reg) : Res State := do
  p.check d (s.ptr p)
  let (v, s') ← s.memRead (s.ptr p)
  .ok (((s'.setReg d v).setPtr p (s.ptr p + 1)).advance 1)

/-- LD Rd,−P (R268, R271, R275): `ea <- P − 1; P <- ea; x[d] <- MemRead(ea, 1); pc <- pc + 1`. -/
def State.loadDec (s : State) (p : Ptr) (d : Reg) : Res State := do
  p.check d (s.ptr p - 1)
  let (v, s') ← (s.setPtr p (s.ptr p - 1)).memRead (s.ptr p - 1)
  .ok ((s'.setReg d v).advance 1)

/-- ST P+,Rr (R280, R283, R287): `ea <- P; MemWrite(ea, 1, x[r]); P <- ea + 1; pc <- pc + 1`. -/
def State.storeInc (s : State) (p : Ptr) (r : Reg) : Res State := do
  p.check r (s.ptr p)
  let s' ← s.memWrite (s.ptr p) (s.reg r)
  .ok ((s'.setPtr p (s.ptr p + 1)).advance 1)

/-- ST −P,Rr (R281, R284, R288): `ea <- P − 1; P <- ea; MemWrite(ea, 1, x[r]); pc <- pc + 1`. -/
def State.storeDec (s : State) (p : Ptr) (r : Reg) : Res State := do
  p.check r (s.ptr p - 1)
  let s' ← (s.setPtr p (s.ptr p - 1)).memWrite (s.ptr p - 1) (s.reg r)
  .ok (s'.advance 1)

/-- `P + q` (20_memory.md R91). -/
def State.displaced (s : State) (p : Ptr) (q : BitVec 6) : Word := s.ptr p + q.setWidth 16

/-- `addr7(k) = (NOT k[4]) : k[4] : k[6] : k[5] : k[3:0]` (R265, D26), as a data address. -/
def addr7 (k : BitVec 7) : Word :=
  0#8 ++ BitVec.ofBool (!k.getLsbD 4) ++ k.extractLsb' 4 1 ++ k.extractLsb' 6 1 ++ k.extractLsb' 5 1 ++ k.extractLsb' 0 4

/-- `x[d] <- ProgByte(b); pc <- pc + 1` (R290, R291, R293, R294). -/
def State.loadProgram (s : State) (d : Reg) (b : ProgByteAddr) : Res State := do
  let v ← s.progByte b
  .ok ((s.setReg d v).advance 1)

/-- The byte address of LPM: Z, 16 bits. -/
def State.zByte (s : State) : ProgByteAddr := (s.ptr .z).setWidth 24

/-- `pc + 1 + sext_12(k)` (41_branch.md R201, R205). -/
def State.target12 (s : State) (k : BitVec 12) : PcAddr := s.pc + 1 + k.signExtend 22

/-- `pc + 1 + sext_7(k)` (R219, R220). -/
def State.target7 (s : State) (k : BitVec 7) : PcAddr := s.pc + 1 + k.signExtend 22

/-- `if cond then pc <- pc + 1 + sext_7(k) else pc <- pc + 1` (R219, R220). -/
def State.branchIf (s : State) (cond : Bool) (k : BitVec 7) : State :=
  if cond then s.setPc (s.target7 k) else s.advance 1

/-- `skip(cond)` (R239): the word at pc + 1 is read only when the condition holds. Each word to be skipped must exist (D2,
D27; log entry 18): the word at pc + 1, and the one at pc + 2 where the first is that of a two-word instruction. -/
def State.skip (s : State) (cond : Bool) : Res State :=
  if cond then
    match s.progWord? (s.dev.wrap (s.pc + 1)).toNat with
    | some w =>
      if isTwoWord w && (s.progWord? (s.dev.wrap (s.pc + 2)).toNat).isNone then
        refuse (.skipBeyondFlash (s.dev.wrap (s.pc + 2)).toNat)
      else .ok (s.advance (1 + BitVec.ofNat 22 (skipLen w)))
    | none => refuse (.skipBeyondFlash (s.dev.wrap (s.pc + 1)).toNat)
  else .ok (s.advance 1)

/-- `pushPC(ret); pc <- target` (R205 … R208). -/
def State.callTo (s : State) (ret target : PcAddr) : Res State := do
  let s ← s.pushPc (s.dev.wrap ret)
  .ok (s.setPc target)

/-- The target of JMP and CALL must lie below 2^PC_BITS (R204, R208, D2). -/
def State.checkTarget (s : State) (k : PcAddr) : Res Unit :=
  if k.toNat < 2 ^ s.dev.pcBits then .ok () else refuse (.targetBeyondPc k.toNat)

end Sys2Proof.Machine
end

