-- ==== Sys2Proof/Machine/Arithmetic.lean ====
section
/-! DEFINITION. The meanings of the arithmetic and logic instructions (40_arithmetic_logic.md R151 … R178). -/

namespace Sys2Proof.Machine

/-- ADD Rd,Rr (R151). -/
def execAdd (d r : Reg) (s : State) : StepOutcome State :=
  .next (s.alu d (s.reg d + s.reg r) (s.flagsAdd (s.reg d) (s.reg r) (s.reg d + s.reg r)))

/-- ADC Rd,Rr (R152). -/
def execAdc (d r : Reg) (s : State) : StepOutcome State :=
  let res := s.reg d + s.reg r + s.carry
  .next (s.alu d res (s.flagsAdd (s.reg d) (s.reg r) res))

/-- ADIW Rd+1:Rd,K (R153). -/
def execAdiw (d : Reg) (K : BitVec 6) (s : State) : StepOutcome State :=
  let res := s.pair d + K.setWidth 16
  .next (s.aluPair d res (s.flagsAdiw (s.pair d) res))

/-- SUB Rd,Rr (R154). -/
def execSub (d r : Reg) (s : State) : StepOutcome State :=
  .next (s.alu d (s.reg d - s.reg r) (s.flagsSub (s.reg d) (s.reg r) (s.reg d - s.reg r)))

/-- SUBI Rd,K (R155). -/
def execSubi (d : Reg) (K : Byte) (s : State) : StepOutcome State :=
  .next (s.alu d (s.reg d - K) (s.flagsSub (s.reg d) K (s.reg d - K)))

/-- SBC Rd,Rr (R156). -/
def execSbc (d r : Reg) (s : State) : StepOutcome State :=
  let res := s.reg d - s.reg r - s.carry
  .next (s.alu d res (s.flagsSbc (s.reg d) (s.reg r) res))

/-- SBCI Rd,K (R157). -/
def execSbci (d : Reg) (K : Byte) (s : State) : StepOutcome State :=
  let res := s.reg d - K - s.carry
  .next (s.alu d res (s.flagsSbc (s.reg d) K res))

/-- SBIW Rd+1:Rd,K (R158). -/
def execSbiw (d : Reg) (K : BitVec 6) (s : State) : StepOutcome State :=
  let res := s.pair d - K.setWidth 16
  .next (s.aluPair d res (s.flagsSbiw (s.pair d) res))

/-- AND Rd,Rr (R159). -/
def execAnd (d r : Reg) (s : State) : StepOutcome State :=
  .next (s.alu d (s.reg d &&& s.reg r) (s.flagsLogic (s.reg d &&& s.reg r)))

/-- ANDI Rd,K (R160). -/
def execAndi (d : Reg) (K : Byte) (s : State) : StepOutcome State :=
  .next (s.alu d (s.reg d &&& K) (s.flagsLogic (s.reg d &&& K)))

/-- OR Rd,Rr (R161). -/
def execOr (d r : Reg) (s : State) : StepOutcome State :=
  .next (s.alu d (s.reg d ||| s.reg r) (s.flagsLogic (s.reg d ||| s.reg r)))

/-- ORI Rd,K (R162). -/
def execOri (d : Reg) (K : Byte) (s : State) : StepOutcome State :=
  .next (s.alu d (s.reg d ||| K) (s.flagsLogic (s.reg d ||| K)))

/-- EOR Rd,Rr (R163). -/
def execEor (d r : Reg) (s : State) : StepOutcome State :=
  .next (s.alu d (s.reg d ^^^ s.reg r) (s.flagsLogic (s.reg d ^^^ s.reg r)))

/-- COM Rd (R164). -/
def execCom (d : Reg) (s : State) : StepOutcome State :=
  .next (s.alu d (0xFF - s.reg d) (s.flagsCom (0xFF - s.reg d)))

/-- NEG Rd (R165). -/
def execNeg (d : Reg) (s : State) : StepOutcome State :=
  .next (s.alu d (0x00 - s.reg d) (s.flagsNeg (s.reg d) (0x00 - s.reg d)))

/-- SBR Rd,K, the same instruction as ORI (R166). -/
def execSbr (d : Reg) (K : Byte) (s : State) : StepOutcome State :=
  .next (s.alu d (s.reg d ||| K) (s.flagsLogic (s.reg d ||| K)))

/-- CBR Rd,K: `K` is the operand as written, not the field (R167). -/
def execCbr (d : Reg) (K : Byte) (s : State) : StepOutcome State :=
  .next (s.alu d (s.reg d &&& (0xFF - K)) (s.flagsLogic (s.reg d &&& (0xFF - K))))

/-- INC Rd (R168). -/
def execInc (d : Reg) (s : State) : StepOutcome State :=
  .next (s.alu d (s.reg d + 1) (s.flagsInc (s.reg d + 1)))

/-- DEC Rd (R169). -/
def execDec (d : Reg) (s : State) : StepOutcome State :=
  .next (s.alu d (s.reg d - 1) (s.flagsDec (s.reg d - 1)))

/-- TST Rd: the register is rewritten with its own value (R170). -/
def execTst (d : Reg) (s : State) : StepOutcome State :=
  .next (s.alu d (s.reg d) (s.flagsLogic (s.reg d)))

/-- CLR Rd: the register is not read (R171). -/
def execClr (d : Reg) (s : State) : StepOutcome State :=
  .next (s.alu d 0x00 (s.flagsLogic 0x00))

/-- SER Rd (R172). -/
def execSer (d : Reg) (s : State) : StepOutcome State :=
  .next ((s.setReg d 0xFF).advance 1)

/-- MUL Rd,Rr (R173). -/
def execMul (d r : Reg) (s : State) : StepOutcome State :=
  .next (s.multiply ((s.reg d).setWidth 16) ((s.reg r).setWidth 16))

/-- MULS Rd,Rr (R174). -/
def execMuls (d r : Reg) (s : State) : StepOutcome State :=
  .next (s.multiply ((s.reg d).signExtend 16) ((s.reg r).signExtend 16))

/-- MULSU Rd,Rr: Rd signed, Rr unsigned (R175). -/
def execMulsu (d r : Reg) (s : State) : StepOutcome State :=
  .next (s.multiply ((s.reg d).signExtend 16) ((s.reg r).setWidth 16))

/-- FMUL Rd,Rr (R176). -/
def execFmul (d r : Reg) (s : State) : StepOutcome State :=
  .next (s.multiplyFractional ((s.reg d).setWidth 16) ((s.reg r).setWidth 16))

/-- FMULS Rd,Rr (R177). -/
def execFmuls (d r : Reg) (s : State) : StepOutcome State :=
  .next (s.multiplyFractional ((s.reg d).signExtend 16) ((s.reg r).signExtend 16))

/-- FMULSU Rd,Rr (R178). -/
def execFmulsu (d r : Reg) (s : State) : StepOutcome State :=
  .next (s.multiplyFractional ((s.reg d).signExtend 16) ((s.reg r).setWidth 16))

end Sys2Proof.Machine
end

