-- ==== Sys2Proof/Machine/BitOps.lean ====
section
/-! DEFINITION. The meanings of the bit and bit-test instructions (43_bit_and_bit_test.md R342 … R369). -/

namespace Sys2Proof.Machine

/-- LSL Rd: ADD Rd,Rd (R342). -/
def execLsl (d : Reg) (s : State) : StepOutcome State :=
  .next (s.alu d (s.reg d <<< 1) (s.flagsAdd (s.reg d) (s.reg d) (s.reg d <<< 1)))

/-- LSR Rd (R343). -/
def execLsr (d : Reg) (s : State) : StepOutcome State :=
  .next (s.alu d (s.reg d >>> 1) (s.flagsShift (s.reg d >>> 1) ((s.reg d).getLsbD 0)))

/-- ROL Rd: ADC Rd,Rd (R344). -/
def execRol (d : Reg) (s : State) : StepOutcome State :=
  let res := (s.reg d <<< 1) ||| s.carry
  .next (s.alu d res (s.flagsAdd (s.reg d) (s.reg d) res))

/-- ROR Rd: the old C enters bit 7 (R345). -/
def execRor (d : Reg) (s : State) : StepOutcome State :=
  let res := (s.carry <<< 7) ||| (s.reg d >>> 1)
  .next (s.alu d res (s.flagsShift res ((s.reg d).getLsbD 0)))

/-- ASR Rd: bit 7 keeps its value (R346). -/
def execAsr (d : Reg) (s : State) : StepOutcome State :=
  let res := (s.reg d &&& 0x80) ||| (s.reg d >>> 1)
  .next (s.alu d res (s.flagsShift res ((s.reg d).getLsbD 0)))

/-- SWAP Rd (R347). -/
def execSwap (d : Reg) (s : State) : StepOutcome State :=
  .next ((s.setReg d ((s.reg d).extractLsb' 0 4 ++ (s.reg d).extractLsb' 4 4)).advance 1)

/-- BSET s; BSET 7 is SEI and delays interrupts by one instruction (R348, R360). -/
def execBset (b : BitVec 3) (s : State) : StepOutcome State :=
  .next ({ s.setSregBit b true with inhibit := s.inhibit || decide (b = bitI) }.advance 1)

/-- BCLR s (R349). -/
def execBclr (b : BitVec 3) (s : State) : StepOutcome State :=
  .next ((s.setSregBit b false).advance 1)

/-- SBI A,b (R350). -/
def execSbi (A : BitVec 5) (b : BitVec 3) (s : State) : StepOutcome State :=
  finish do
    let s ← s.ioWriteBit (A.setWidth 6) b true
    .ok (s.advance 1)

/-- CBI A,b (R351). -/
def execCbi (A : BitVec 5) (b : BitVec 3) (s : State) : StepOutcome State :=
  finish do
    let s ← s.ioWriteBit (A.setWidth 6) b false
    .ok (s.advance 1)

/-- BST Rd,b (R352). -/
def execBst (d : Reg) (b : BitVec 3) (s : State) : StepOutcome State :=
  .next ((s.setFlags { s.flags with t := bitOf (s.reg d) b }).advance 1)

/-- BLD Rd,b (R353). -/
def execBld (d : Reg) (b : BitVec 3) (s : State) : StepOutcome State :=
  .next ((s.setReg d (withBit (s.reg d) b s.flags.t)).advance 1)

/-- SEC (R354). -/
def execSec (s : State) : StepOutcome State :=
  .next ((s.setFlags { s.flags with c := true }).advance 1)

/-- CLC (R355). -/
def execClc (s : State) : StepOutcome State :=
  .next ((s.setFlags { s.flags with c := false }).advance 1)

/-- SEN (R356). -/
def execSen (s : State) : StepOutcome State :=
  .next ((s.setFlags { s.flags with n := true }).advance 1)

/-- CLN (R357). -/
def execCln (s : State) : StepOutcome State :=
  .next ((s.setFlags { s.flags with n := false }).advance 1)

/-- SEZ (R358). -/
def execSez (s : State) : StepOutcome State :=
  .next ((s.setFlags { s.flags with z := true }).advance 1)

/-- CLZ (R359). -/
def execClz (s : State) : StepOutcome State :=
  .next ((s.setFlags { s.flags with z := false }).advance 1)

/-- SEI: the instruction after it runs before any interrupt (R360). -/
def execSei (s : State) : StepOutcome State :=
  .next ({ s.setFlags { s.flags with i := true } with inhibit := true }.advance 1)

/-- CLI (R361). -/
def execCli (s : State) : StepOutcome State :=
  .next ((s.setFlags { s.flags with i := false }).advance 1)

/-- SES (R362). -/
def execSes (s : State) : StepOutcome State :=
  .next ((s.setFlags { s.flags with s := true }).advance 1)

/-- CLS (R363). -/
def execCls (s : State) : StepOutcome State :=
  .next ((s.setFlags { s.flags with s := false }).advance 1)

/-- SEV (R364). -/
def execSev (s : State) : StepOutcome State :=
  .next ((s.setFlags { s.flags with v := true }).advance 1)

/-- CLV (R365). -/
def execClv (s : State) : StepOutcome State :=
  .next ((s.setFlags { s.flags with v := false }).advance 1)

/-- SET (R366). -/
def execSetT (s : State) : StepOutcome State :=
  .next ((s.setFlags { s.flags with t := true }).advance 1)

/-- CLT (R367). -/
def execClt (s : State) : StepOutcome State :=
  .next ((s.setFlags { s.flags with t := false }).advance 1)

/-- SEH (R368). -/
def execSeh (s : State) : StepOutcome State :=
  .next ((s.setFlags { s.flags with h := true }).advance 1)

/-- CLH (R369). -/
def execClh (s : State) : StepOutcome State :=
  .next ((s.setFlags { s.flags with h := false }).advance 1)

end Sys2Proof.Machine
end

