-- ==== Sys2Proof/Machine/Branch.lean ====
section
/-! DEFINITION. The meanings of the jump, call, compare, skip and branch instructions (41_branch.md R201 … R238). -/

namespace Sys2Proof.Machine

/-- RJMP k (R201). -/
def execRjmp (k : BitVec 12) (s : State) : StepOutcome State :=
  .next (s.setPc (s.target12 k))

/-- IJMP (R202). -/
def execIjmp (s : State) : StepOutcome State :=
  .next (s.setPc ((s.ptr .z).setWidth 22))

/-- EIJMP (R203). -/
def execEijmp (s : State) : StepOutcome State :=
  .next (s.setPc s.eindZ)

/-- JMP k (R204). -/
def execJmp (k : PcAddr) (s : State) : StepOutcome State :=
  finish do
    s.checkTarget k
    .ok (s.setPc k)

/-- RCALL k (R205). -/
def execRcall (k : BitVec 12) (s : State) : StepOutcome State :=
  finish (s.callTo (s.pc + 1) (s.target12 k))

/-- ICALL: Z is read before the push (R206). -/
def execIcall (s : State) : StepOutcome State :=
  finish (s.callTo (s.pc + 1) ((s.ptr .z).setWidth 22))

/-- EICALL: EIND and Z are read before the push (R207). -/
def execEicall (s : State) : StepOutcome State :=
  finish (s.callTo (s.pc + 1) s.eindZ)

/-- CALL k (R208). -/
def execCall (k : PcAddr) (s : State) : StepOutcome State :=
  finish do
    s.checkTarget k
    s.callTo (s.pc + 2) k

/-- RET (R209). -/
def execRet (s : State) : StepOutcome State :=
  finish do
    let (a, s) ← s.popPc
    .ok (s.setPc a)

/-- RETI (R210). -/
def execReti (s : State) : StepOutcome State :=
  finish s.returnFromInterrupt

/-- CPSE Rd,Rr (R211). -/
def execCpse (d r : Reg) (s : State) : StepOutcome State :=
  finish (s.skip (s.reg d == s.reg r))

/-- CP Rd,Rr (R212). -/
def execCp (d r : Reg) (s : State) : StepOutcome State :=
  .next (s.compare (s.flagsSub (s.reg d) (s.reg r) (s.reg d - s.reg r)))

/-- CPC Rd,Rr (R213). -/
def execCpc (d r : Reg) (s : State) : StepOutcome State :=
  .next (s.compare (s.flagsSbc (s.reg d) (s.reg r) (s.reg d - s.reg r - s.carry)))

/-- CPI Rd,K (R214). -/
def execCpi (d : Reg) (K : Byte) (s : State) : StepOutcome State :=
  .next (s.compare (s.flagsSub (s.reg d) K (s.reg d - K)))

/-- SBRC Rr,b (R215). -/
def execSbrc (r : Reg) (b : BitVec 3) (s : State) : StepOutcome State :=
  finish (s.skip (!bitOf (s.reg r) b))

/-- SBRS Rr,b (R216). -/
def execSbrs (r : Reg) (b : BitVec 3) (s : State) : StepOutcome State :=
  finish (s.skip (bitOf (s.reg r) b))

/-- SBIC A,b (R217). -/
def execSbic (A : BitVec 5) (b : BitVec 3) (s : State) : StepOutcome State :=
  finish ((s.ioRead (A.setWidth 6)).2.skip (!bitOf (s.ioRead (A.setWidth 6)).1 b))

/-- SBIS A,b (R218). -/
def execSbis (A : BitVec 5) (b : BitVec 3) (s : State) : StepOutcome State :=
  finish ((s.ioRead (A.setWidth 6)).2.skip (bitOf (s.ioRead (A.setWidth 6)).1 b))

/-- BRBS s,k (R219). -/
def execBrbs (b : BitVec 3) (k : BitVec 7) (s : State) : StepOutcome State :=
  .next (s.branchIf (bitOf s.sreg b) k)

/-- BRBC s,k (R220). -/
def execBrbc (b : BitVec 3) (k : BitVec 7) (s : State) : StepOutcome State :=
  .next (s.branchIf (!bitOf s.sreg b) k)

/-- BREQ k: Z = 1 (R221). -/
def execBreq (k : BitVec 7) (s : State) : StepOutcome State :=
  .next (s.branchIf s.flags.z k)

/-- BRNE k: Z = 0 (R222). -/
def execBrne (k : BitVec 7) (s : State) : StepOutcome State :=
  .next (s.branchIf (!s.flags.z) k)

/-- BRCS k: C = 1 (R223). -/
def execBrcs (k : BitVec 7) (s : State) : StepOutcome State :=
  .next (s.branchIf s.flags.c k)

/-- BRCC k: C = 0 (R224). -/
def execBrcc (k : BitVec 7) (s : State) : StepOutcome State :=
  .next (s.branchIf (!s.flags.c) k)

/-- BRSH k: C = 0 (R225). -/
def execBrsh (k : BitVec 7) (s : State) : StepOutcome State :=
  .next (s.branchIf (!s.flags.c) k)

/-- BRLO k: C = 1 (R226). -/
def execBrlo (k : BitVec 7) (s : State) : StepOutcome State :=
  .next (s.branchIf s.flags.c k)

/-- BRMI k: N = 1 (R227). -/
def execBrmi (k : BitVec 7) (s : State) : StepOutcome State :=
  .next (s.branchIf s.flags.n k)

/-- BRPL k: N = 0 (R228). -/
def execBrpl (k : BitVec 7) (s : State) : StepOutcome State :=
  .next (s.branchIf (!s.flags.n) k)

/-- BRGE k: S = 0, the SREG bit itself (R229). -/
def execBrge (k : BitVec 7) (s : State) : StepOutcome State :=
  .next (s.branchIf (!s.flags.s) k)

/-- BRLT k: S = 1, the SREG bit itself (R230). -/
def execBrlt (k : BitVec 7) (s : State) : StepOutcome State :=
  .next (s.branchIf s.flags.s k)

/-- BRHS k: H = 1 (R231). -/
def execBrhs (k : BitVec 7) (s : State) : StepOutcome State :=
  .next (s.branchIf s.flags.h k)

/-- BRHC k: H = 0 (R232). -/
def execBrhc (k : BitVec 7) (s : State) : StepOutcome State :=
  .next (s.branchIf (!s.flags.h) k)

/-- BRTS k: T = 1 (R233). -/
def execBrts (k : BitVec 7) (s : State) : StepOutcome State :=
  .next (s.branchIf s.flags.t k)

/-- BRTC k: T = 0 (R234). -/
def execBrtc (k : BitVec 7) (s : State) : StepOutcome State :=
  .next (s.branchIf (!s.flags.t) k)

/-- BRVS k: V = 1 (R235). -/
def execBrvs (k : BitVec 7) (s : State) : StepOutcome State :=
  .next (s.branchIf s.flags.v k)

/-- BRVC k: V = 0 (R236). -/
def execBrvc (k : BitVec 7) (s : State) : StepOutcome State :=
  .next (s.branchIf (!s.flags.v) k)

/-- BRIE k: I = 1 (R237). -/
def execBrie (k : BitVec 7) (s : State) : StepOutcome State :=
  .next (s.branchIf s.flags.i k)

/-- BRID k: I = 0 (R238). -/
def execBrid (k : BitVec 7) (s : State) : StepOutcome State :=
  .next (s.branchIf (!s.flags.i) k)

end Sys2Proof.Machine
end

