-- ==== Sys2Proof/Machine/Control.lean ====
section
/-! DEFINITION. The meanings of the control instructions (44_mcu_control.md R391 … R394). -/

namespace Sys2Proof.Machine

/-- BREAK (R391): undecodable where the device lacks it; else, by `BREAK_MODE`, a NOP, or the end of the run with pc still
at the BREAK: the processor halts (log entry 23). -/
def execBrk (s : State) : StepOutcome State :=
  if s.dev.hasBreak then
    match s.dev.breakMode with
    | .nop => .next (s.advance 1)
    | .stop => .next { s with halted := true }
  else .fault (.undecodable 0x9598)

/-- NOP (R392). -/
def execNop (s : State) : StepOutcome State :=
  .next (s.advance 1)

/-- SLEEP: pc advances first, then the processor sleeps (R393). -/
def execSleep (s : State) : StepOutcome State :=
  .next { s.advance 1 with sleeping := true }

/-- WDR: the watchdog is disabled for the whole run, so its restart has no effect (R394, D14; log entry 17). -/
def execWdr (s : State) : StepOutcome State :=
  .next (s.advance 1)

end Sys2Proof.Machine
end

