-- ==== Sys2Proof/Machine/Transfer.lean ====
section
/-! DEFINITION. The meanings of the data transfer instructions (42_data_transfer.md R261 … R302). -/

namespace Sys2Proof.Machine

/-- MOV Rd,Rr (R261). -/
def execMov (d r : Reg) (s : State) : StepOutcome State :=
  .next ((s.setReg d (s.reg r)).advance 1)

/-- MOVW Rd+1:Rd,Rr+1:Rr: both source bytes are read first (R262). -/
def execMovw (d r : Reg) (s : State) : StepOutcome State :=
  .next ((s.setPair d (s.pair r)).advance 1)

/-- LDI Rd,K (R263). -/
def execLdi (d : Reg) (K : Byte) (s : State) : StepOutcome State :=
  .next ((s.setReg d K).advance 1)

/-- LDS Rd,k, two words (R264). -/
def execLds (d : Reg) (k : Word) (s : State) : StepOutcome State :=
  finish (s.load d k 2)

/-- LDS Rd,k, one word (R265). -/
def execLdsShort (d : Reg) (k : BitVec 7) (s : State) : StepOutcome State :=
  finish (s.load d (addr7 k) 1)

/-- LD Rd,X (R266). -/
def execLdX (d : Reg) (s : State) : StepOutcome State :=
  finish (s.load d (s.ptr .x) 1)

/-- LD Rd,X+ (R267). -/
def execLdXInc (d : Reg) (s : State) : StepOutcome State :=
  finish (s.loadInc .x d)

/-- LD Rd,−X (R268). -/
def execLdXDec (d : Reg) (s : State) : StepOutcome State :=
  finish (s.loadDec .x d)

/-- LD Rd,Y (R269). -/
def execLdY (d : Reg) (s : State) : StepOutcome State :=
  finish (s.load d (s.ptr .y) 1)

/-- LD Rd,Y+ (R270). -/
def execLdYInc (d : Reg) (s : State) : StepOutcome State :=
  finish (s.loadInc .y d)

/-- LD Rd,−Y (R271). -/
def execLdYDec (d : Reg) (s : State) : StepOutcome State :=
  finish (s.loadDec .y d)

/-- LDD Rd,Y+q (R272). -/
def execLddY (d : Reg) (q : BitVec 6) (s : State) : StepOutcome State :=
  finish (s.load d (s.displaced .y q) 1)

/-- LD Rd,Z (R273). -/
def execLdZ (d : Reg) (s : State) : StepOutcome State :=
  finish (s.load d (s.ptr .z) 1)

/-- LD Rd,Z+ (R274). -/
def execLdZInc (d : Reg) (s : State) : StepOutcome State :=
  finish (s.loadInc .z d)

/-- LD Rd,−Z (R275). -/
def execLdZDec (d : Reg) (s : State) : StepOutcome State :=
  finish (s.loadDec .z d)

/-- LDD Rd,Z+q (R276). -/
def execLddZ (d : Reg) (q : BitVec 6) (s : State) : StepOutcome State :=
  finish (s.load d (s.displaced .z q) 1)

/-- STS k,Rr, two words (R277). -/
def execSts (k : Word) (r : Reg) (s : State) : StepOutcome State :=
  finish (s.store r k 2)

/-- STS k,Rr, one word (R278). -/
def execStsShort (k : BitVec 7) (r : Reg) (s : State) : StepOutcome State :=
  finish (s.store r (addr7 k) 1)

/-- ST X,Rr (R279). -/
def execStX (r : Reg) (s : State) : StepOutcome State :=
  finish (s.store r (s.ptr .x) 1)

/-- ST X+,Rr (R280). -/
def execStXInc (r : Reg) (s : State) : StepOutcome State :=
  finish (s.storeInc .x r)

/-- ST −X,Rr (R281). -/
def execStXDec (r : Reg) (s : State) : StepOutcome State :=
  finish (s.storeDec .x r)

/-- ST Y,Rr (R282). -/
def execStY (r : Reg) (s : State) : StepOutcome State :=
  finish (s.store r (s.ptr .y) 1)

/-- ST Y+,Rr (R283). -/
def execStYInc (r : Reg) (s : State) : StepOutcome State :=
  finish (s.storeInc .y r)

/-- ST −Y,Rr (R284). -/
def execStYDec (r : Reg) (s : State) : StepOutcome State :=
  finish (s.storeDec .y r)

/-- STD Y+q,Rr (R285). -/
def execStdY (q : BitVec 6) (r : Reg) (s : State) : StepOutcome State :=
  finish (s.store r (s.displaced .y q) 1)

/-- ST Z,Rr (R286). -/
def execStZ (r : Reg) (s : State) : StepOutcome State :=
  finish (s.store r (s.ptr .z) 1)

/-- ST Z+,Rr (R287). -/
def execStZInc (r : Reg) (s : State) : StepOutcome State :=
  finish (s.storeInc .z r)

/-- ST −Z,Rr (R288). -/
def execStZDec (r : Reg) (s : State) : StepOutcome State :=
  finish (s.storeDec .z r)

/-- STD Z+q,Rr (R289). -/
def execStdZ (q : BitVec 6) (r : Reg) (s : State) : StepOutcome State :=
  finish (s.store r (s.displaced .z q) 1)

/-- LPM: Z is a byte address, R0 implied (R290). -/
def execLpm (s : State) : StepOutcome State :=
  finish (s.loadProgram 0 s.zByte)

/-- LPM Rd,Z (R291). -/
def execLpmZ (d : Reg) (s : State) : StepOutcome State :=
  finish (s.loadProgram d s.zByte)

/-- LPM Rd,Z+: the increment is on 16 bits (R292), d = 30, 31 refused (R303 item 2). -/
def execLpmZInc (d : Reg) (s : State) : StepOutcome State :=
  finish do
    if Ptr.z.holds d then refuse .dataRegisterInPointer
    let v ← s.progByte s.zByte
    .ok (((s.setReg d v).setPtr .z (s.ptr .z + 1)).advance 1)

/-- ELPM: RAMPZ:Z is a byte address, R0 implied (R293). -/
def execElpm (s : State) : StepOutcome State :=
  finish (s.loadProgram 0 s.rampzZ)

/-- ELPM Rd,Z (R294). -/
def execElpmZ (d : Reg) (s : State) : StepOutcome State :=
  finish (s.loadProgram d s.rampzZ)

/-- ELPM Rd,Z+: the increment carries into RAMPZ (R295), d = 30, 31 refused (R303 item 2). -/
def execElpmZInc (d : Reg) (s : State) : StepOutcome State :=
  finish do
    if Ptr.z.holds d then refuse .dataRegisterInPointer
    let v ← s.progByte s.rampzZ
    .ok (((s.setReg d v).setRampzZ (s.rampzZ + 1)).advance 1)

/-- SPM (R296, D16): five operations and nothing that selects one; refused in every state. -/
def execSpm (_ : State) : StepOutcome State :=
  .refused .spm

/-- SPM Z+ (R297, D16): as SPM. -/
def execSpmZInc (_ : State) : StepOutcome State :=
  .refused .spmZPlus

/-- IN Rd,A (R298). -/
def execInp (d : Reg) (A : IoAddr) (s : State) : StepOutcome State :=
  .next (((s.ioRead A).2.setReg d (s.ioRead A).1).advance 1)

/-- OUT A,Rr (R299). -/
def execOut (A : IoAddr) (r : Reg) (s : State) : StepOutcome State :=
  finish do
    let s ← s.ioWrite A (s.reg r)
    .ok (s.advance 1)

/-- PUSH Rr (R300). -/
def execPush (r : Reg) (s : State) : StepOutcome State :=
  finish do
    let s ← s.push8 (s.reg r)
    .ok (s.advance 1)

/-- POP Rd (R301). -/
def execPop (d : Reg) (s : State) : StepOutcome State :=
  finish do
    let (v, s) ← s.pop8
    .ok ((s.setReg d v).advance 1)

/-- XCH Z,Rd: the address and the memory byte are read first (R302, R303 item 4). -/
def execXch (d : Reg) (s : State) : StepOutcome State :=
  finish do
    let (t, s') ← s.memRead (s.ptr .z)
    let s' ← s'.memWrite (s.ptr .z) (s.reg d)
    .ok ((s'.setReg d t).advance 1)

end Sys2Proof.Machine
end

