-- ==== Sys2Proof/Machine/Fetch.lean ====
section
/-! DEFINITION. Fetching the instruction at pc (20_memory.md R89, 30_encoding.md R116) and what every executed
instruction does first (60_exceptions.md R405). -/

namespace Sys2Proof.Machine

/-- The word address after pc, modulo 2^PC_BITS (10_state.md R35). -/
def State.nextWordAddr (s : State) : Nat := (s.dev.wrap (s.pc + 1)).toNat

/-- The instruction at pc. A word address at or beyond `FLASH_WORDS` is refused (D2), a word that matches no admitted
instruction is a fault (R116, D9); the second word is read only for a two-word instruction (R89). -/
def State.fetch (s : State) : Res Instr :=
  match s.progWord? s.pc.toNat with
  | none => refuse (.fetchBeyondFlash s.pc.toNat)
  | some w =>
    match decode s.dev.core w ((s.progWord? s.nextWordAddr).getD 0) with
    | none => fault (.undecodable w)
    | some i =>
      if s.dev.admits i then
        if isTwoWord w && (s.progWord? s.nextWordAddr).isNone then refuse (.fetchBeyondFlash s.nextWordAddr)
        else .ok i
      else fault (.undecodable w)

/-- `advance eemwe_window by one instruction` (R415): `open(n)` becomes `open(n + 1)`, `open(4)` becomes closed. -/
def EemweWindow.aged : EemweWindow → EemweWindow
  | .closed => .closed
  | .opened n => if n = 4 then .closed else .opened (n + 1)

/-- What an executed instruction starts from: `inhibit` taken back and the EEMWE window advanced (R405). -/
def State.beginInstr (s : State) : State := { s with inhibit := false, window := s.window.aged }

/-- Writes a program word, if the device has it. No instruction does this (20_memory.md R87): it is the launch's
(70_reset_and_hazards.md R468). -/
def State.putProgWord (s : State) (w : Nat) (v : Word) : State :=
  if w < s.dev.flashWords then
    { s with flash := Memory.write (Memory.write s.flash (2 * w) (lowByte v)) (2 * w + 1) (highByte v) }
  else s

end Sys2Proof.Machine
end

