-- ==== Sys2Proof/Machine/Step.lean ====
section
/-! DEFINITION. The step of the whole machine (60_exceptions.md R405). -/

namespace Sys2Proof.Machine

/-- The processor's step, the other agents having moved: an interrupt entry, a wait, or one instruction (R405). A wait
leaves the processor as it is. A processor that BREAK has halted makes no step (44_mcu_control.md R391); the other agents
still move, so that an EEPROM write in progress completes (70_reset_and_hazards.md R467, R417). -/
def processorStep (s : State) : Host.Outcome State Fault Refusal :=
  if s.halted then .next s
  else
    match s.sampled with
    | some n => finish ({ s with inhibit := false }.interruptEntry n)
    | none =>
      if s.sleeping then .next { s with inhibit := false }
      else
        match s.fetch with
        | .ok i => exec i s.beginInstr
        | .error (.fault f) => .fault f
        | .error (.refused r) => .refused r

/-- One step: the other agents move, then the processor (R405). -/
def step (s : State) : Host.Outcome State Fault Refusal := processorStep s.agents

/-- The instruction whose bits are `w` placed at pc, and the processor made to execute it next: awake, not halted, and with the
interrupt of this sampling point held off when I is set (log entry 13). -/
def State.withFetchWord (s : State) (nbits w : Nat) : State :=
  let v : BitVec 32 := BitVec.ofNat 32 (w % 2 ^ nbits)
  let s' := (s.putProgWord s.pc.toNat (v.extractLsb' 0 16)).putProgWord s.nextWordAddr (v.extractLsb' 16 16)
  { s' with sleeping := false, halted := false, inhibit := s.inhibit || bitOf s.sreg bitI }

end Sys2Proof.Machine
end

