-- ==== Sys2Proof/Safety.lean ====
section
/-! DEFINITION. What claims speak of: the machine's invariant and the final states of a run. -/

namespace Sys2Proof.Machine

/-- A strictly rising list of sources. -/
def risingSources (l : List Nat) : Bool := decide (l.Pairwise (· < ·))

/-- The invariant of the machine: the device parameters fit together (00_scope.md R7); pc is below 2^PC_BITS
(10_state.md R34); the three memories are in canonical form within their address spaces (20_memory.md R70, R71,
R75, R81); a write in progress lies in the EEPROM (60_exceptions.md R415, D33); the unimplemented bits of RAMPZ
and EIND are 0 (D31); the stored requests are sources of ENV_IRQ, each once (R402). -/
abbrev State.Inv (s : State) : Prop :=
  s.dev.wf = true ∧
  s.pc.toNat < 2 ^ s.dev.pcBits ∧
  Memory.wf none s.dev.ramStart (s.dev.ramEnd + 1) s.sram = true ∧
  Memory.wf (some erasedByte) 0 (2 * s.dev.flashWords) s.flash = true ∧
  Memory.wf (some erasedByte) 0 s.dev.eepromBytes s.eeprom = true ∧
  s.eeWrite.all (fun w => decide (w.addr.toNat < s.dev.eepromBytes)) = true ∧
  s.rampz &&& s.dev.rampzMask = s.rampz ∧
  s.eind &&& s.dev.eindMask = s.eind ∧
  risingSources s.irq = true ∧
  s.irq.all (fun n => s.dev.envIrq.contains n) = true

/-- The final states of a run (70_reset_and_hazards.md R467): no write in progress, and RJMP −1 with I = 0, or sleeping
with I = 0, or BREAK where it stops the run. That no fault and no refusal is recorded is so of every state: a stopped
step has none. -/
def State.final (s : State) : Bool :=
  !s.busy &&
  ((decide (s.progWord? s.pc.toNat = some 0xCFFF) && !bitOf s.sreg bitI) ||
   (s.sleeping && !bitOf s.sreg bitI) ||
   (decide (s.dev.breakMode = .stop) && decide (s.progWord? s.pc.toNat = some 0x9598)))

/-! The vocabulary of claims about one instruction. `s` is the state before it, `t` the state after it. -/

/-- pc moved by `n` words, modulo 2^PC_BITS (10_state.md R35). -/
def MovedBy (s t : State) (n : Int) : Prop := (t.pc.toNat : Int) = (s.pc.toNat + n) % 2 ^ s.dev.pcBits

/-- Every general register outside `l` is unchanged. -/
def OtherRegs (s t : State) (l : List Reg) : Prop := ∀ r : Reg, r ∉ l → t.reg r = s.reg r

/-- Nothing changed but pc: no register, no flag, no special register, no byte of any memory. -/
def OnlyPc (s t : State) : Prop := t = { s with pc := t.pc }

/-- Nothing changed but general registers and pc. -/
def OnlyRegs (s t : State) : Prop := t = { s with regs := t.regs, pc := t.pc }

/-- Nothing changed but SREG and pc. -/
def OnlySreg (s t : State) : Prop := t = { s with sreg := t.sreg, pc := t.pc }

/-- Nothing changed but general registers, SREG and pc. -/
def OnlyRegsSreg (s t : State) : Prop := t = { s with regs := t.regs, sreg := t.sreg, pc := t.pc }

/-- Every listed or unlisted byte of SRAM outside `l` reads as before. -/
def OtherSram (s t : State) (l : List Nat) : Prop := ∀ a : Nat, a ∉ l → Memory.get? t.sram a = Memory.get? s.sram a

/-- The data address is one of internal SRAM, after the I/O range and within RAMSTART … RAMEND (10_state.md R48,
20_memory.md R71). -/
def State.inSram (s : State) (a : Word) : Prop :=
  0x60 ≤ a.toNat ∧ s.dev.ramStart ≤ a.toNat ∧ a.toNat ≤ s.dev.ramEnd

/-- The flags after flag function `fn`, given `x`: I, T and each flag for which the device's configuration `flags` has
no rule (00_scope.md R7, D1) are those of the default function, which `P` describes; every other flag is its
rule's value. -/
def FlagsBy (s t : State) (fn : FlagFn) (x : FlagArgs) (P : Flags → Prop) : Prop :=
  ∃ f : Flags, P f ∧ t.flags.i = f.i ∧ t.flags.t = f.t ∧
    ∀ g, t.flags.get g = match flagRule? s.dev.flags fn g with
      | some r => flagValue x s.flags r.value
      | none => f.get g

/-- N and S of the flags `f` after an operation with byte result `res` (40_arithmetic_logic.md R141 … R148), and I, T
kept from the flags `o` before it (R140). -/
def ResultFlags (o f : Flags) (res : Byte) : Prop :=
  f.n = decide (128 ≤ res.toNat) ∧ f.s = (f.n ^^ f.v) ∧ f.i = o.i ∧ f.t = o.t

/-- The flags `f` of `a + b + cin` in integer terms, `o` being the flags before (R141): C the carry out of bit 7, H
out of bit 3, V when the sum of the signed values does not fit in a byte, S its sign. -/
def SumFlags (o : Flags) (a b : Byte) (cin : Nat) (f : Flags) : Prop :=
  f.c = decide (256 ≤ a.toNat + b.toNat + cin) ∧
  f.h = decide (16 ≤ a.toNat % 16 + b.toNat % 16 + cin) ∧
  f.v = !decide (-128 ≤ a.toInt + b.toInt + cin ∧ a.toInt + b.toInt + cin ≤ 127) ∧
  f.s = decide (a.toInt + b.toInt + cin < 0) ∧
  f.z = decide ((a.toNat + b.toNat + cin) % 256 = 0) ∧
  f.n = decide (128 ≤ (a.toNat + b.toNat + cin) % 256) ∧
  f.i = o.i ∧ f.t = o.t

/-- The flags `f` of `a − b − bin` in integer terms, `o` being the flags before (R142, R143): C the borrow, H the
borrow from bit 4, V when the signed difference does not fit in a byte, S its sign; Z when the result is zero and,
where `keepZ`, Z was set before. -/
def DifferenceFlags (o : Flags) (a b : Byte) (bin : Nat) (keepZ : Bool) (f : Flags) : Prop :=
  f.c = decide (a.toNat < b.toNat + bin) ∧
  f.h = decide (a.toNat % 16 < b.toNat % 16 + bin) ∧
  f.v = !decide (-128 ≤ a.toInt - b.toInt - bin ∧ a.toInt - b.toInt - bin ≤ 127) ∧
  f.s = decide (a.toInt - b.toInt - bin < 0) ∧
  f.z = (decide (((a.toNat : Int) - b.toNat - bin) % 256 = 0) && (!keepZ || o.z)) ∧
  f.n = decide (128 ≤ ((a.toNat : Int) - b.toNat - bin) % 256) ∧
  f.i = o.i ∧ f.t = o.t

/-- A byte operation on `x[d]` completed: `x[d]` is `res` modulo 256, nothing else changed but SREG, and pc passed one
word. -/
def WroteByte (s t : State) (d : Reg) (res : Int) : Prop :=
  ((t.reg d).toNat : Int) = res % 256 ∧ OtherRegs s t [d] ∧ OnlyRegsSreg s t ∧ MovedBy s t 1

/-- A pair operation on `x[d+1] : x[d]` completed. -/
def WrotePair (s t : State) (d : Reg) (res : Int) : Prop :=
  ((t.pair d).toNat : Int) = res % 65536 ∧ OtherRegs s t [d, d + 1] ∧ OnlyRegsSreg s t ∧ MovedBy s t 1

/-- `MemRead(a, 1)` as its rule says it (20_memory.md R73): a byte `v`, in the state `u` that differs at most in the
number of draws. -/
def Reads (s : State) (a : Word) (v : Byte) (u : State) : Prop :=
  (a.toNat < 0x20 ∧ v = s.reg (a.setWidth 5) ∧ u = s) ∨
  (0x20 ≤ a.toNat ∧ a.toNat < 0x60 ∧ (v, u) = s.ioRead ((a - 0x20).setWidth 6)) ∨
  (s.inSram a ∧ Memory.get? s.sram a.toNat = some v ∧ u = s)

/-- Where `MemRead(a, 1)` stops, and with what (R73): an SRAM byte that nothing has written (D7), an address above
RAMEND (D3) or, after the I/O range, below RAMSTART (log entry 31). -/
def ReadStops (s : State) (a : Word) (e : Stop) : Prop :=
  (s.inSram a ∧ Memory.get? s.sram a.toNat = none ∧ e = .fault (.sramUnwritten a.toNat)) ∨
  (0x60 ≤ a.toNat ∧ s.dev.ramEnd < a.toNat ∧ e = .refused (.dataAddressBeyondRam a.toNat)) ∨
  (0x60 ≤ a.toNat ∧ a.toNat < s.dev.ramStart ∧ a.toNat ≤ s.dev.ramEnd ∧ e = .refused (.dataAddressBelowRam a.toNat))

/-- Where `MemWrite(a, 1, v)` stops, and with what (R73): an I/O write that is refused, an address above RAMEND
(D3) or, after the I/O range, below RAMSTART (log entry 31). -/
def WriteStops (s : State) (a : Word) (v : Byte) (e : Stop) : Prop :=
  (0x20 ≤ a.toNat ∧ a.toNat < 0x60 ∧ s.ioWrite ((a - 0x20).setWidth 6) v = .error e) ∨
  (0x60 ≤ a.toNat ∧ s.dev.ramEnd < a.toNat ∧ e = .refused (.dataAddressBeyondRam a.toNat)) ∨
  (0x60 ≤ a.toNat ∧ a.toNat < s.dev.ramStart ∧ a.toNat ≤ s.dev.ramEnd ∧ e = .refused (.dataAddressBelowRam a.toNat))

/-- The bytes of a return address, in the order in which they are pushed: low byte first, two bytes or three
(10_state.md R41). -/
def returnBytes (c : Device) (a : PcAddr) : List Byte :=
  [a.extractLsb' 0 8, a.extractLsb' 8 8] ++ (match c.pcClass with | .bits16 => [] | .bits22 => [0#2 ++ a.extractLsb' 16 6])

/-- All the bytes of a return address pushed from SP lie in SRAM. -/
def State.stackInSram (s : State) : Prop :=
  0x5F + (returnBytes s.dev 0).length ≤ s.sp.toNat ∧
  s.dev.ramStart + (returnBytes s.dev 0).length ≤ s.sp.toNat + 1 ∧ s.sp.toNat ≤ s.dev.ramEnd

/-- The return address `a` was pushed: its bytes lie from the old SP downward, no other byte of SRAM changed, and SP
moved down by their number (R41). -/
def PushedAddress (s t : State) (a : PcAddr) : Prop :=
  let bytes := returnBytes s.dev a
  (∀ k, k < bytes.length → Memory.get? t.sram (s.sp.toNat - k) = bytes[k]?) ∧
  (∀ x, (∀ k, k < bytes.length → x ≠ s.sp.toNat - k) → Memory.get? t.sram x = Memory.get? s.sram x) ∧
  t.sp = s.sp - BitVec.ofNat 16 bytes.length

/-- SRAM holds the bytes of the address `a` above SP, as a push of it leaves them. -/
def HoldsReturn (s : State) (a : PcAddr) : Prop :=
  let bytes := returnBytes s.dev a
  s.sp.toNat + bytes.length ≤ s.dev.ramEnd ∧ s.dev.ramEnd < 2 ^ 16 ∧ 0x5F ≤ s.sp.toNat ∧
  s.dev.ramStart ≤ s.sp.toNat + 1 ∧
  ∀ k, k < bytes.length → Memory.get? s.sram (s.sp.toNat + bytes.length - k) = bytes[k]?

end Sys2Proof.Machine
end

