-- ==== Sys2Proof/Certificates/Slice0/Obligations.lean ====
section
/-! DEFINITION. The statements for the provers. Each cites in OBLIGATIONS.json the rules of spec/ it rests on; a `D` number
is a decision of 92_eei_decisions.md, the spec's own choice. -/

open Sys2Proof Sys2Proof.Machine

/-- For every device and every well-formed instruction the device admits, the words of its encoding decode to the
instruction, or to the base instruction when it is only another name, with every operand at its value; the first
word alone tells the length. -/
def Obligations.DecodeOfEncode : Prop :=
  ∀ (c : Device) (i : Instr), i.wf = true → c.admits i = true →
    ∃ w rest, encode i = w :: rest ∧ decode c.core w (rest.headD 0) = some (i.base c.core) ∧
      skipLen w = rest.length + 1

/-- Whatever the decoder answers is well-formed, is a base instruction and not an alias, and its encoding is exactly the
words that were decoded: no bit of a word is dropped. -/
def Obligations.EncodeOfDecode : Prop :=
  ∀ (core : CoreKind) (w w2 : Word) (i : Instr), decode core w w2 = some i →
    i.wf = true ∧ i.base core = i ∧ encode i = (if isTwoWord w then [w, w2] else [w])

/-- Where the decoder rejects a word, no well-formed instruction that the device admits has that word as its first word,
and the words 0x0001 to 0x00FF, which are not NOP, are rejected. -/
def Obligations.UndecodableWordsEncodeNothing : Prop :=
  (∀ (c : Device) (w w2 : Word), decode c.core w w2 = none →
    ∀ i : Instr, i.wf = true → c.admits i = true → ∀ rest, encode i ≠ w :: rest) ∧
  (∀ (core : CoreKind) (w w2 : Word), 1 ≤ w.toNat → w.toNat ≤ 0xFF → decode core w w2 = none)

/-- One worked example word of each family decodes to the instruction printed beside it. -/
def Obligations.SampleWordsDecode : Prop :=
  decode .classic 0x0F01 0 = some (.add 16 17) ∧
  decode .classic 0x96DF 0 = some (.adiw 26 63) ∧
  decode .classic 0x0389 0 = some (.fmulsu 16 17) ∧
  decode .classic 0xCFFD 0 = some (.rjmp (-3)) ∧
  decode .classic 0x940E 0x0100 = some (.call 0x0100) ∧
  decode .classic 0xF7F1 0 = some (.brbc 1 (-2)) ∧
  decode .classic 0x802D 0 = some (.lddY 2 5) ∧
  decode .classic 0x9200 0x0060 = some (.sts 0x0060 0) ∧
  decode .reduced 0xAFFF 0 = some (.stsShort 0x7F 31) ∧
  decode .classic 0xBF0D 0 = some (.out 0x3D 16) ∧
  decode .classic 0x9AE2 0 = some (.sbi 0x1C 2) ∧
  decode .classic 0x9588 0 = some .sleep

/-- When no interrupt is taken, the processor is awake, BREAK has not halted it and the words at pc decode to an
admitted instruction, the step is exactly exec of it on the state in which the other agents have moved, the
interrupt delay is taken back and the EEMWE window is one instruction older; with no write in progress and no source
for the environment to raise, the other agents change nothing. -/
def Obligations.StepRunsDecodedInstruction : Prop :=
  (∀ (s : State) (w w2 : Word) (i : Instr),
    s.agents.sampled = none → s.agents.sleeping = false → s.halted = false →
    s.agents.progWord? s.agents.pc.toNat = some w →
    (skipLen w = 2 → s.agents.progWord? s.agents.nextWordAddr = some w2) →
    decode s.agents.dev.core w w2 = some i → s.agents.dev.admits i = true →
    step s = exec i { s.agents with inhibit := false, window := s.agents.window.aged }) ∧
  (∀ s : State, s.eeWrite = none → s.dev.envIrq = [] → s.agents = s)

/-- When the processor, awake and not halted by BREAK, is to execute the word at pc: if every reading of it is none or
an instruction the device does not admit, the step is the fault of undecodable words; if pc, or the second word of
an admitted two-word instruction, lies at or beyond FLASH_WORDS, the step is refused. The fault is the spec's own
decision D9, the refusals its decision D2. -/
def Obligations.FetchStops : Prop :=
  (∀ (s : State) (w : Word), s.agents.sampled = none → s.agents.sleeping = false → s.halted = false →
    s.agents.progWord? s.agents.pc.toNat = some w →
    (∀ w2 i, decode s.agents.dev.core w w2 = some i → s.agents.dev.admits i = false) →
    step s = .fault (.undecodable w)) ∧
  (∀ s : State, s.agents.sampled = none → s.agents.sleeping = false → s.halted = false →
    s.agents.dev.flashWords ≤ s.agents.pc.toNat → step s = .refused (.fetchBeyondFlash s.agents.pc.toNat)) ∧
  (∀ (s : State) (w w2 : Word) (i : Instr), s.agents.sampled = none → s.agents.sleeping = false → s.halted = false →
    s.agents.progWord? s.agents.pc.toNat = some w → skipLen w = 2 →
    decode s.agents.dev.core w w2 = some i → s.agents.dev.admits i = true →
    s.agents.dev.flashWords ≤ s.agents.nextWordAddr → step s = .refused (.fetchBeyondFlash s.agents.nextWordAddr))

/-- At a sampling point with I set, no interrupt delay and the processor not halted by BREAK, if source n is pending and
no source with a lower number is, then the step is the entry of source n. That sampling lies between instructions is
the spec's decision D11. -/
def Obligations.LowestPendingSourceIsEntered : Prop :=
  ∀ (s : State) (n : Nat),
    s.halted = false → bitOf s.agents.sreg bitI = true → s.agents.inhibit = false →
    2 ≤ n → n ≤ s.agents.dev.nVectors → s.agents.pending n = true →
    (∀ m, 2 ≤ m → m < n → s.agents.pending m = false) →
    step s = finish ({ s.agents with inhibit := false }.interruptEntry n)

/-- With I = 0, with the one-instruction delay pending, or with no source pending, no interrupt is entered; a processor
that sleeps at such a step, not halted by BREAK, changes nothing except that the delay is taken back. R405 says that
the waiting processor makes no step: that the model makes one, which takes back the delay and nothing else, is the
model's choice (log entry 24, DESIGN CHOICE). -/
def Obligations.MaskedOrDelayedTakesNoInterrupt : Prop :=
  ∀ s : State,
    (bitOf s.agents.sreg bitI = false ∨ s.agents.inhibit = true ∨
      ∀ n, 2 ≤ n → n ≤ s.agents.dev.nVectors → s.agents.pending n = false) →
    s.agents.sampled = none ∧
    (s.agents.sleeping = true → s.halted = false → step s = .next { s.agents with inhibit := false })

/-- With the stack in SRAM, the entry of source n pushes the address pc, low byte first, two bytes or three; clears I
and no other flag; clears the stored request n, but not EE_RDY, which is a level; wakes the processor; closes the
EEMWE window; and goes to VECTOR_STRIDE times n minus 1. No register, no other flag and no other byte changes. With
SP elsewhere the entry does the same after what the push of pc does there, and stops where that push stops, for the
same reason: on SPL or SPH itself and above RAMEND it is refused. The sequence is the spec's decision D10, the order
of the bytes its decision D5, the refusals its decisions D20 and D3. -/
def Obligations.InterruptEntryEffect : Prop :=
  ∀ (s : State) (n : Nat),
    (s.stackInSram → ∃ t, s.interruptEntry n = .ok t ∧ PushedAddress s t s.pc ∧
      t.flags = { s.flags with i := false } ∧
      t.pc.toNat = s.dev.vectorStride * (n - 1) % 2 ^ s.dev.pcBits ∧
      t.sleeping = false ∧ t.window = .closed ∧
      (∀ m, m ∈ t.irq ↔ m ∈ s.irq ∧ (m = n → n = 18)) ∧
      t = { s with pc := t.pc, sreg := t.sreg, sp := t.sp, sram := t.sram, irq := t.irq, sleeping := false,
                   window := .closed }) ∧
    (∀ u, s.pushPc s.pc = .ok u → ∃ t, s.interruptEntry n = .ok t ∧
      t.flags = { u.flags with i := false } ∧
      t.pc.toNat = s.dev.vectorStride * (n - 1) % 2 ^ s.dev.pcBits ∧
      (∀ m, m ∈ t.irq ↔ m ∈ s.irq ∧ (m = n → n = 18)) ∧
      t = { u with pc := t.pc, sreg := t.sreg, irq := t.irq, sleeping := false, window := .closed }) ∧
    (∀ e, s.pushPc s.pc = .error e → s.interruptEntry n = .error e) ∧
    (s.sp.toNat = s.dev.splAddr.toNat + 0x20 ∨ s.sp.toNat = s.dev.sphAddr.toNat + 0x20 →
      s.interruptEntry n = .error (.refused .stackOnStackPointer)) ∧
    (0x60 ≤ s.sp.toNat → s.dev.ramEnd < s.sp.toNat →
      s.interruptEntry n = .error (.refused (.dataAddressBeyondRam s.sp.toNat)))

/-- After an interrupt entry on a stack in SRAM, RETI completes with pc, SP and every general register as before the
entry, I set, every other flag as before and the delay of one instruction pending. What entry and RETI do to I is
the spec's decisions D10 and D12. -/
def Obligations.EntryThenRetiResumes : Prop :=
  ∀ (s t : State) (n : Nat), s.stackInSram → s.pc.toNat < 2 ^ s.dev.pcBits →
    s.interruptEntry n = .ok t →
    ∃ u, exec .reti t = .next u ∧ u.pc = s.pc ∧ u.sp = s.sp ∧ u.regs = s.regs ∧
      u.flags = { s.flags with i := true } ∧ u.inhibit = true

/-- SEI, BSET 7 and RETI leave I set and the delay pending, so that the step after them enters no interrupt whatever is
raised; after CLI and BCLR 7 none is entered because I is clear; a write of SREG by OUT carries no delay. The delay
is the spec's decision D11. -/
def Obligations.SetIDelaysOneInstruction : Prop :=
  (∀ s t : State, exec .sei s = .next t ∨ exec (.bset 7) s = .next t ∨ exec .reti s = .next t →
    t.flags.i = true ∧ t.inhibit = true ∧ t.agents.sampled = none) ∧
  (∀ s t : State, exec .cli s = .next t ∨ exec (.bclr 7) s = .next t →
    t.flags.i = false ∧ t.agents.sampled = none) ∧
  (∀ (s t : State) (r : Reg), exec (.out 0x3F r) s = .next t → t.sreg = s.reg r ∧ t.inhibit = s.inhibit)

/-- Source 18 is pending exactly when EERIE is 1 and no write is in progress; entering it on a stack in SRAM leaves it
pending. -/
def Obligations.EeReadyIsALevel : Prop :=
  (∀ s : State, s.pending 18 = true ↔ s.eerie = true ∧ s.eeWrite = none) ∧
  (∀ s t : State, s.stackInSram → s.interruptEntry 18 = .ok t → t.pending 18 = s.pending 18)

/-- From every state that meets the invariant, whether a run reaches it or not, a step that answers a next state answers
one that meets it: pc below 2^PC_BITS, the three memories canonical and within their address spaces (SRAM from
RAMSTART to RAMEND), a write in progress inside the EEPROM, the unimplemented bits of RAMPZ and EIND zero, the
stored requests sources of ENV_IRQ in rising order, and the device parameters consistent. -/
def Obligations.InvariantKept : Prop :=
  ∀ s t : State, s.Inv → step s = .next t → t.Inv

/-- The state after reset meets the invariant that every step keeps. -/
def Obligations.ResetMeetsInvariant : Prop :=
  State.reset.Inv

/-- After reset pc is 0, SREG is 0x00, EEDR is 0x00, EERIE is 0, the EEMWE window is closed, no interrupt delay is
pending, the processor is awake and not halted and no request is stored, whatever the program image and the EEPROM
content. SREG = 0x00 is the spec's decision D8. -/
def Obligations.ResetValues : Prop :=
  ∀ (c : Device) (flash eeprom : Memory),
    let s := State.launch c flash eeprom
    s.pc = 0 ∧ s.sreg = 0x00 ∧ s.eedr = 0x00 ∧ s.eerie = false ∧ s.window = .closed ∧ s.inhibit = false ∧
      s.sleeping = false ∧ s.halted = false ∧ s.irq = [] ∧ s.flash = flash ∧ s.eeprom = eeprom ∧
      State.reset = State.launch Device.atmega32 [] []

/-- No step changes program memory or a device parameter; if a step changes the EEPROM at all, a write was in progress
with no wait left, and the change is the latched byte at the latched address. That the parameters are an unchanging
part of the state is the model's form of 00_scope.md R7 and R468 (log entry 11, DESIGN CHOICE); that the write ends
when a drawn wait has run out is the model's choice (log entry 10, DESIGN CHOICE), R417 saying only that it is
finite. That program memory is constant rests on the spec's decision D16. -/
def Obligations.ProgramMemoryAndEepromAreGuarded : Prop :=
  ∀ s t : State, step s = .next t →
    t.flash = s.flash ∧ t.dev = s.dev ∧
    (t.eeprom = s.eeprom ∨
      ∃ w, s.eeWrite = some w ∧ w.wait = 0 ∧ t.eeprom = Memory.write s.eeprom w.addr.toNat w.data)

/-- In a step, a stored request that disappears is the source that the step enters, and every stored request after it
was stored before it or is a source of ENV_IRQ. That requests behave so is the spec's decision D32. -/
def Obligations.RequestsLeaveOnlyByEntry : Prop :=
  ∀ s t : State, step s = .next t →
    (∀ n, n ∈ s.irq → n ∉ t.irq → s.agents.sampled = some n) ∧
    (∀ n, n ∈ t.irq → n ∈ s.irq ∨ n ∈ s.dev.envIrq)

/-- From a final state of a run the machine always steps, to a final state that differs at most in the interrupt delay,
the age of the EEMWE window, the stored requests, the number of draws and in that BREAK may now have halted the
processor; where BREAK_MODE is stop, provided that the processor is already halted or that I is 0 and, if the
processor is awake at the word of BREAK, the device has it. What is final is the spec's decision D17. That a final
BREAK state still steps, and that BREAK may then have halted the processor, is the model's choice (log entry 23,
DESIGN CHOICE), and so is the step of a final sleeper, of which R405 says that the processor makes none (log entry
24, DESIGN CHOICE). -/
def Obligations.FinalStatesStayFinal : Prop :=
  ∀ s : State, s.Inv → (s.dev.breakMode = .stop → s.halted = true ∨
      (bitOf s.sreg bitI = false ∧
        (s.dev.hasBreak = true ∨ s.sleeping = true ∨ s.progWord? s.pc.toNat ≠ some 0x9598))) →
    s.final = true →
    ∃ t, step s = .next t ∧ t.final = true ∧
      t = { s with inhibit := t.inhibit, window := t.window, irq := t.irq, draws := t.draws, halted := t.halted }

/-- In every state the four complete: Rd receives the sum modulo 256 (of Rd with itself for LSL and ROL, with the carry
for ADC and ROL); C, H, V, S, Z, N are those of the exact sum; I, T and everything else are unchanged; pc passes one
word. The flags are those of the spec's default functions, with the device's replacements where its configuration
`flags` has any; both are the spec's decision D1 (log entry 16). -/
def Obligations.AddEffect : Prop :=
  ∀ (s : State) (d r : Reg),
    (∃ t, exec (.add d r) s = .next t ∧ WroteByte s t d ((s.reg d).toNat + (s.reg r).toNat) ∧
      FlagsBy s t .add ⟨(s.reg d).setWidth 16, (s.reg r).setWidth 16, (t.reg d).setWidth 16⟩
        (SumFlags s.flags (s.reg d) (s.reg r) 0)) ∧
    (∃ t, exec (.adc d r) s = .next t ∧ WroteByte s t d ((s.reg d).toNat + (s.reg r).toNat + s.flags.c.toNat) ∧
      FlagsBy s t .add ⟨(s.reg d).setWidth 16, (s.reg r).setWidth 16, (t.reg d).setWidth 16⟩
        (SumFlags s.flags (s.reg d) (s.reg r) s.flags.c.toNat)) ∧
    (∃ t, exec (.lsl d) s = .next t ∧ WroteByte s t d (2 * (s.reg d).toNat) ∧
      FlagsBy s t .add ⟨(s.reg d).setWidth 16, (s.reg d).setWidth 16, (t.reg d).setWidth 16⟩
        (SumFlags s.flags (s.reg d) (s.reg d) 0)) ∧
    (∃ t, exec (.rol d) s = .next t ∧ WroteByte s t d (2 * (s.reg d).toNat + s.flags.c.toNat) ∧
      FlagsBy s t .add ⟨(s.reg d).setWidth 16, (s.reg d).setWidth 16, (t.reg d).setWidth 16⟩
        (SumFlags s.flags (s.reg d) (s.reg d) s.flags.c.toNat))

/-- In every state the four complete: Rd receives the difference modulo 256, less the borrow for SBC and SBCI; C, H, V,
S, Z, N are those of the exact difference, where SBC and SBCI can only keep or clear Z; I, T and everything else are
unchanged; pc passes one word. The flags are those of the spec's default functions, with the device's replacements
where its configuration `flags` has any; both are the spec's decision D1 (log entry 16). -/
def Obligations.SubtractEffect : Prop :=
  ∀ (s : State) (d r : Reg) (K : Byte),
    (∃ t, exec (.sub d r) s = .next t ∧ WroteByte s t d ((s.reg d).toNat - (s.reg r).toNat) ∧
      FlagsBy s t .sub ⟨(s.reg d).setWidth 16, (s.reg r).setWidth 16, (t.reg d).setWidth 16⟩
        (DifferenceFlags s.flags (s.reg d) (s.reg r) 0 false)) ∧
    (∃ t, exec (.subi d K) s = .next t ∧ WroteByte s t d ((s.reg d).toNat - K.toNat) ∧
      FlagsBy s t .sub ⟨(s.reg d).setWidth 16, K.setWidth 16, (t.reg d).setWidth 16⟩
        (DifferenceFlags s.flags (s.reg d) K 0 false)) ∧
    (∃ t, exec (.sbc d r) s = .next t ∧ WroteByte s t d ((s.reg d).toNat - (s.reg r).toNat - s.flags.c.toNat) ∧
      FlagsBy s t .sbc ⟨(s.reg d).setWidth 16, (s.reg r).setWidth 16, (t.reg d).setWidth 16⟩
        (DifferenceFlags s.flags (s.reg d) (s.reg r) s.flags.c.toNat true)) ∧
    (∃ t, exec (.sbci d K) s = .next t ∧ WroteByte s t d ((s.reg d).toNat - K.toNat - s.flags.c.toNat) ∧
      FlagsBy s t .sbc ⟨(s.reg d).setWidth 16, K.setWidth 16, (t.reg d).setWidth 16⟩
        (DifferenceFlags s.flags (s.reg d) K s.flags.c.toNat true))

/-- In every state the three complete: no general register changes; C, H, V, S, Z, N are those of the exact difference,
with the borrow and the kept Z for CPC; everything else is unchanged; pc passes one word. The flags are those of the
spec's default functions, with the device's replacements where its configuration `flags` has any; both are the
spec's decision D1 (log entry 16). -/
def Obligations.CompareEffect : Prop :=
  ∀ (s : State) (d r : Reg) (K : Byte),
    (∃ t, exec (.cp d r) s = .next t ∧ OnlySreg s t ∧ MovedBy s t 1 ∧
      FlagsBy s t .sub ⟨(s.reg d).setWidth 16, (s.reg r).setWidth 16, ((s.reg d) - (s.reg r)).setWidth 16⟩
        (DifferenceFlags s.flags (s.reg d) (s.reg r) 0 false)) ∧
    (∃ t, exec (.cpc d r) s = .next t ∧ OnlySreg s t ∧ MovedBy s t 1 ∧
      FlagsBy s t .sbc ⟨(s.reg d).setWidth 16, (s.reg r).setWidth 16, ((s.reg d) - (s.reg r) - s.carry).setWidth 16⟩
        (DifferenceFlags s.flags (s.reg d) (s.reg r) s.flags.c.toNat true)) ∧
    (∃ t, exec (.cpi d K) s = .next t ∧ OnlySreg s t ∧ MovedBy s t 1 ∧
      FlagsBy s t .sub ⟨(s.reg d).setWidth 16, K.setWidth 16, ((s.reg d) - K).setWidth 16⟩
        (DifferenceFlags s.flags (s.reg d) K 0 false))

/-- AND, ANDI, OR, ORI, EOR, SBR, CBR, TST and CLR complete in every state: each bit of Rd is the operation of the
operand bits (CBR clears the bits set in K, TST keeps Rd, CLR zeroes it); V is 0, N is bit 7, S equals N, Z tells
zero; C, H, I, T and everything else are unchanged; pc passes one word. The flags are those of the spec's default
functions, with the device's replacements where its configuration `flags` has any; both are the spec's decision D1
(log entry 16). -/
def Obligations.LogicEffect : Prop :=
  ∀ (s : State) (d r : Reg) (K : Byte),
    ∀ f ∈ ([(.and d r, fun k => (s.reg d).getLsbD k && (s.reg r).getLsbD k),
            (.andi d K, fun k => (s.reg d).getLsbD k && K.getLsbD k),
            (.or d r, fun k => (s.reg d).getLsbD k || (s.reg r).getLsbD k),
            (.ori d K, fun k => (s.reg d).getLsbD k || K.getLsbD k),
            (.eor d r, fun k => (s.reg d).getLsbD k ^^ (s.reg r).getLsbD k),
            (.sbr d K, fun k => (s.reg d).getLsbD k || K.getLsbD k),
            (.cbr d K, fun k => (s.reg d).getLsbD k && !K.getLsbD k),
            (.tst d, fun k => (s.reg d).getLsbD k),
            (.clr d, fun _ => false)] : List (Instr × (Nat → Bool))),
      ∃ t, exec f.1 s = .next t ∧ (∀ k, k < 8 → (t.reg d).getLsbD k = f.2 k) ∧ OtherRegs s t [d] ∧
        OnlyRegsSreg s t ∧ MovedBy s t 1 ∧
        FlagsBy s t .logic ⟨0, 0, (t.reg d).setWidth 16⟩
          (· = { s.flags with v := false, n := f.2 7, s := f.2 7, z := decide (t.reg d = 0) })

/-- COM and NEG complete in every state: COM writes 255 minus Rd, sets C, clears V and keeps H; NEG writes 0 minus Rd
modulo 256 with C set unless the result is zero, V set only for 0x80, H the borrow from bit 4; N, Z, S follow the
result; I, T and everything else are unchanged. The flags are those of the spec's default functions, with the
device's replacements where its configuration `flags` has any; both are the spec's decision D1 (log entry 16). -/
def Obligations.ComplementNegateEffect : Prop :=
  ∀ (s : State) (d : Reg),
    (∃ t, exec (.com d) s = .next t ∧ WroteByte s t d (255 - (s.reg d).toNat) ∧
      FlagsBy s t .com ⟨0, 0, (t.reg d).setWidth 16⟩ (fun f => ResultFlags s.flags f (t.reg d) ∧
        f.z = decide ((s.reg d).toNat = 255) ∧ f.v = false ∧ f.c = true ∧ f.h = s.flags.h)) ∧
    (∃ t, exec (.neg d) s = .next t ∧ WroteByte s t d (-((s.reg d).toNat : Int)) ∧
      FlagsBy s t .neg ⟨(s.reg d).setWidth 16, 0, (t.reg d).setWidth 16⟩ (fun f => ResultFlags s.flags f (t.reg d) ∧
        f.z = decide ((s.reg d).toNat = 0) ∧ f.v = decide ((s.reg d).toNat = 128) ∧
        f.c = decide ((s.reg d).toNat ≠ 0) ∧ f.h = decide ((s.reg d).toNat % 16 ≠ 0)))

/-- INC and DEC complete in every state: Rd plus or minus 1 modulo 256; V set only when the signed value passed the end
of its range; N, Z, S follow the result; C, H, I, T and everything else are unchanged. The flags are those of the
spec's default functions, with the device's replacements where its configuration `flags` has any; both are the
spec's decision D1 (log entry 16). -/
def Obligations.IncrementDecrementEffect : Prop :=
  ∀ (s : State) (d : Reg),
    (∃ t, exec (.inc d) s = .next t ∧ WroteByte s t d ((s.reg d).toNat + 1) ∧
      FlagsBy s t .inc ⟨0, 0, (t.reg d).setWidth 16⟩ (fun f => ResultFlags s.flags f (t.reg d) ∧
        f.z = decide ((s.reg d).toNat = 255) ∧ f.v = decide ((s.reg d).toInt = 127) ∧
        f.c = s.flags.c ∧ f.h = s.flags.h)) ∧
    (∃ t, exec (.dec d) s = .next t ∧ WroteByte s t d ((s.reg d).toNat - 1) ∧
      FlagsBy s t .dec ⟨0, 0, (t.reg d).setWidth 16⟩ (fun f => ResultFlags s.flags f (t.reg d) ∧
        f.z = decide ((s.reg d).toNat = 1) ∧ f.v = decide ((s.reg d).toInt = -128) ∧
        f.c = s.flags.c ∧ f.h = s.flags.h))

/-- For d of 24, 26, 28 and 30 ADIW and SBIW complete in every state: the pair changes by K modulo 65536; C is the carry
or borrow out of bit 15, V tells that the signed result does not fit, S is the sign of the exact result, N and Z
follow the written pair; H, I, T and everything else are unchanged. The flags are those of the spec's default
functions, with the device's replacements where its configuration `flags` has any; both are the spec's decision D1
(log entry 16). -/
def Obligations.WordAddSubtractEffect : Prop :=
  ∀ (s : State) (d : Reg) (K : BitVec 6), d.pairHigh = true →
    (∃ t, exec (.adiw d K) s = .next t ∧ WrotePair s t d ((s.pair d).toNat + K.toNat) ∧
      FlagsBy s t .adiw ⟨s.pair d, 0, t.pair d⟩ (· =
        { s.flags with
        c := decide (65536 ≤ (s.pair d).toNat + K.toNat)
        v := decide (32767 < (s.pair d).toInt + K.toNat)
        s := decide ((s.pair d).toInt + K.toNat < 0)
        n := decide (32768 ≤ ((s.pair d).toNat + K.toNat) % 65536)
        z := decide (((s.pair d).toNat + K.toNat) % 65536 = 0) })) ∧
    (∃ t, exec (.sbiw d K) s = .next t ∧ WrotePair s t d ((s.pair d).toNat - K.toNat) ∧
      FlagsBy s t .sbiw ⟨s.pair d, 0, t.pair d⟩ (· =
        { s.flags with
        c := decide ((s.pair d).toNat < K.toNat)
        v := decide ((s.pair d).toInt - K.toNat < -32768)
        s := decide ((s.pair d).toInt - K.toNat < 0)
        n := decide (32768 ≤ ((s.pair d).toNat - K.toNat : Int) % 65536)
        z := decide ((s.pair d).toNat = K.toNat) }))

/-- The three complete in every state: R1:R0 is the exact product of Rd and Rr, both unsigned, both signed, or Rd signed
and Rr unsigned; C is bit 15 of it and Z tells zero; every other register, flag and byte is unchanged; pc passes one
word. The flags are those of the spec's default functions, with the device's replacements where its configuration
`flags` has any; both are the spec's decision D1 (log entry 16). -/
def Obligations.MultiplyEffect : Prop :=
  ∀ (s : State) (d r : Reg),
    (∃ t, exec (.mul d r) s = .next t ∧ (t.pair 0).toNat = (s.reg d).toNat * (s.reg r).toNat ∧
      OtherRegs s t [0, 1] ∧ OnlyRegsSreg s t ∧ MovedBy s t 1 ∧
      FlagsBy s t .mul ⟨0, 0, t.pair 0⟩ (· =
        { s.flags with
        c := decide (32768 ≤ (s.reg d).toNat * (s.reg r).toNat)
        z := decide ((s.reg d).toNat * (s.reg r).toNat = 0) })) ∧
    (∃ t, exec (.muls d r) s = .next t ∧ (t.pair 0).toInt = (s.reg d).toInt * (s.reg r).toInt ∧
      OtherRegs s t [0, 1] ∧ OnlyRegsSreg s t ∧ MovedBy s t 1 ∧
      FlagsBy s t .mul ⟨0, 0, t.pair 0⟩ (· =
        { s.flags with
        c := decide ((s.reg d).toInt * (s.reg r).toInt < 0)
        z := decide ((s.reg d).toInt * (s.reg r).toInt = 0) })) ∧
    (∃ t, exec (.mulsu d r) s = .next t ∧ (t.pair 0).toInt = (s.reg d).toInt * (s.reg r).toNat ∧
      OtherRegs s t [0, 1] ∧ OnlyRegsSreg s t ∧ MovedBy s t 1 ∧
      FlagsBy s t .mul ⟨0, 0, t.pair 0⟩ (· =
        { s.flags with
        c := decide ((s.reg d).toInt * (s.reg r).toNat < 0)
        z := decide ((s.reg d).toInt * (s.reg r).toNat = 0) }))

/-- The three complete in every state: R1:R0 is twice the product of Rd and Rr modulo 65536, unsigned, signed, or signed
by unsigned; C is bit 15 of the product before the shift, Z tells that the written pair is zero; every other
register, flag and byte is unchanged. The flags are those of the spec's default functions, with the device's
replacements where its configuration `flags` has any; both are the spec's decision D1 (log entry 16). -/
def Obligations.FractionalMultiplyEffect : Prop :=
  ∀ (s : State) (d r : Reg),
    (∃ t, exec (.fmul d r) s = .next t ∧ (t.pair 0).toNat = 2 * ((s.reg d).toNat * (s.reg r).toNat) % 65536 ∧
      OtherRegs s t [0, 1] ∧ OnlyRegsSreg s t ∧ MovedBy s t 1 ∧
      FlagsBy s t .fmul ⟨(s.reg d).setWidth 16 * (s.reg r).setWidth 16, 0, t.pair 0⟩ (· =
        { s.flags with
        c := decide (32768 ≤ (s.reg d).toNat * (s.reg r).toNat)
        z := decide ((t.pair 0).toNat = 0) })) ∧
    (∃ t, exec (.fmuls d r) s = .next t ∧
      ((t.pair 0).toNat : Int) = 2 * ((s.reg d).toInt * (s.reg r).toInt) % 65536 ∧
      OtherRegs s t [0, 1] ∧ OnlyRegsSreg s t ∧ MovedBy s t 1 ∧
      FlagsBy s t .fmul ⟨(s.reg d).signExtend 16 * (s.reg r).signExtend 16, 0, t.pair 0⟩ (· =
        { s.flags with
        c := decide ((s.reg d).toInt * (s.reg r).toInt < 0)
        z := decide ((t.pair 0).toNat = 0) })) ∧
    (∃ t, exec (.fmulsu d r) s = .next t ∧
      ((t.pair 0).toNat : Int) = 2 * ((s.reg d).toInt * (s.reg r).toNat) % 65536 ∧
      OtherRegs s t [0, 1] ∧ OnlyRegsSreg s t ∧ MovedBy s t 1 ∧
      FlagsBy s t .fmul ⟨(s.reg d).signExtend 16 * (s.reg r).setWidth 16, 0, t.pair 0⟩ (· =
        { s.flags with
        c := decide ((s.reg d).toInt * (s.reg r).toNat < 0)
        z := decide ((t.pair 0).toNat = 0) }))

/-- The three complete in every state: LSR writes Rd divided by 2, ROR the same with the old C as bit 7, ASR the signed
value divided by 2 rounding down; C is the old bit 0, N bit 7 of the result, Z tells zero, V is N xor C, S is N xor
V; H, I, T and everything else are unchanged. The shift rule is the spec's decision D1 and its general knowledge.
The flags are those of the spec's default functions, with the device's replacements where its configuration `flags`
has any; both are the spec's decision D1 (log entry 16). -/
def Obligations.ShiftRightEffect : Prop :=
  ∀ (s : State) (d : Reg),
    (∃ t, exec (.lsr d) s = .next t ∧ WroteByte s t d ((s.reg d).toNat / 2) ∧
      FlagsBy s t .shift ⟨(s.reg d).setWidth 16 &&& 1, 0, (t.reg d).setWidth 16⟩ (· =
        { s.flags with
        c := decide ((s.reg d).toNat % 2 = 1), n := false, z := decide ((s.reg d).toNat < 2)
        v := decide ((s.reg d).toNat % 2 = 1), s := decide ((s.reg d).toNat % 2 = 1) })) ∧
    (∃ t, exec (.ror d) s = .next t ∧ WroteByte s t d ((s.reg d).toNat / 2 + 128 * s.flags.c.toNat) ∧
      FlagsBy s t .shift ⟨(s.reg d).setWidth 16 &&& 1, 0, (t.reg d).setWidth 16⟩ (· =
        { s.flags with
        c := decide ((s.reg d).toNat % 2 = 1), n := s.flags.c
        z := decide ((s.reg d).toNat < 2) && !s.flags.c
        v := s.flags.c ^^ decide ((s.reg d).toNat % 2 = 1), s := decide ((s.reg d).toNat % 2 = 1) })) ∧
    (∃ t, exec (.asr d) s = .next t ∧ WroteByte s t d ((s.reg d).toInt / 2) ∧
      FlagsBy s t .shift ⟨(s.reg d).setWidth 16 &&& 1, 0, (t.reg d).setWidth 16⟩ (· =
        { s.flags with
        c := decide ((s.reg d).toNat % 2 = 1), n := decide ((s.reg d).toInt < 0)
        z := decide ((s.reg d).toNat < 2)
        v := decide ((s.reg d).toInt < 0) ^^ decide ((s.reg d).toNat % 2 = 1)
        s := decide ((s.reg d).toNat % 2 = 1) }))

/-- The five complete in every state: MOV copies Rr, MOVW the pair Rr+1:Rr for even d and r, LDI writes K, SER 255, SWAP
exchanges the halves of Rd; no other register, no flag and no byte of memory changes; pc passes one word. Their
words are those of the encodings, SER being the word of LDI with 255. -/
def Obligations.MoveEffect : Prop :=
  ∀ (s : State) (d r : Reg) (K : Byte) (core : CoreKind) (w2 : Word),
    (∃ t, exec (.mov d r) s = .next t ∧ t.reg d = s.reg r ∧ OtherRegs s t [d] ∧ OnlyRegs s t ∧ MovedBy s t 1) ∧
    (d.even = true → r.even = true →
      ∃ t, exec (.movw d r) s = .next t ∧ t.reg d = s.reg r ∧ t.reg (d + 1) = s.reg (r + 1) ∧
        OtherRegs s t [d, d + 1] ∧ OnlyRegs s t ∧ MovedBy s t 1) ∧
    (∃ t, exec (.ldi d K) s = .next t ∧ t.reg d = K ∧ OtherRegs s t [d] ∧ OnlyRegs s t ∧ MovedBy s t 1) ∧
    (∃ t, exec (.ser d) s = .next t ∧ (t.reg d).toNat = 255 ∧ OtherRegs s t [d] ∧ OnlyRegs s t ∧ MovedBy s t 1) ∧
    (∃ t, exec (.swap d) s = .next t ∧ (t.reg d).toNat = 16 * ((s.reg d).toNat % 16) + (s.reg d).toNat / 16 ∧
      OtherRegs s t [d] ∧ OnlyRegs s t ∧ MovedBy s t 1) ∧
    decode core (0b001011#6 ++ r.extractLsb' 4 1 ++ d ++ r.extractLsb' 0 4) w2 = some (.mov d r) ∧
    (d.even = true → r.even = true →
      decode core (0b00000001#8 ++ d.extractLsb' 1 4 ++ r.extractLsb' 1 4) w2 = some (.movw d r)) ∧
    (16 ≤ d.toNat → decode core (0b1110#4 ++ K.extractLsb' 4 4 ++ d.extractLsb' 0 4 ++ K.extractLsb' 0 4) w2
        = some (.ldi d K) ∧
      decode core (0b11101111#8 ++ d.extractLsb' 0 4 ++ 0b1111#4) w2 = some (.ldi d 0xFF)) ∧
    decode core (0b1001010#7 ++ d ++ 0b0010#4) w2 = some (.swap d)

/-- Every one completes in every state: the named bit of SREG takes the value, the other seven bits and everything else
are unchanged but for the interrupt delay that BSET 7 and SEI set; pc passes one word. The delay is the spec's
decision D11. -/
def Obligations.FlagBitEffect : Prop :=
  ∀ (s : State) (b : BitVec 3),
    ∀ f ∈ ([(.bset b, b, true), (.bclr b, b, false), (.sec, 0, true), (.clc, 0, false), (.sez, 1, true), (.clz, 1, false),
            (.sen, 2, true), (.cln, 2, false), (.sev, 3, true), (.clv, 3, false), (.ses, 4, true), (.cls, 4, false),
            (.seh, 5, true), (.clh, 5, false), (.setT, 6, true), (.clt, 6, false), (.sei, 7, true),
            (.cli, 7, false)] : List (Instr × BitVec 3 × Bool)),
      ∃ t, exec f.1 s = .next t ∧
        (∀ k, k < 8 → t.sreg.getLsbD k = if k = f.2.1.toNat then f.2.2 else s.sreg.getLsbD k) ∧
        t.inhibit = (s.inhibit || (f.2.2 && decide (f.2.1 = 7))) ∧
        t = { s with sreg := t.sreg, pc := t.pc, inhibit := t.inhibit } ∧ MovedBy s t 1

/-- Both complete in every state: BST writes T from bit b of Rd and no other flag or register; BLD writes bit b of Rd
from T, keeps the other seven bits, and changes no flag; nothing else changes; pc passes one word. Their words are
those of the encodings. -/
def Obligations.BitCopyEffect : Prop :=
  ∀ (s : State) (d : Reg) (b : BitVec 3) (core : CoreKind) (w2 : Word),
    (∃ t, exec (.bst d b) s = .next t ∧ t.flags = { s.flags with t := (s.reg d).getLsbD b.toNat } ∧
      OnlySreg s t ∧ MovedBy s t 1) ∧
    (∃ t, exec (.bld d b) s = .next t ∧
      (∀ k, k < 8 → (t.reg d).getLsbD k = if k = b.toNat then s.flags.t else (s.reg d).getLsbD k) ∧
      OtherRegs s t [d] ∧ OnlyRegs s t ∧ MovedBy s t 1) ∧
    decode core (0b1111101#7 ++ d ++ 0b0#1 ++ b) w2 = some (.bst d b) ∧
    decode core (0b1111100#7 ++ d ++ 0b0#1 ++ b) w2 = some (.bld d b)

/-- On either core, every instruction does in every state exactly what the base instruction of its words does: the
branch, flag, shift, logic and load aliases are only other names. -/
def Obligations.AliasesMeanTheirBase : Prop :=
  ∀ (core : CoreKind) (i : Instr) (s : State), exec i s = exec (i.base core) s

/-- RJMP moves by the signed displacement plus 1; IJMP goes to Z, the upper bits of a 22-bit pc cleared; EIJMP goes to
EIND:Z on the 22-bit class; JMP goes to k; each completes in every state and changes nothing but pc, but that JMP to
a target of 2^PC_BITS or more is refused, which is the spec's decision D2. -/
def Obligations.JumpEffect : Prop :=
  ∀ (s : State) (k12 : BitVec 12) (k : PcAddr),
    (∃ t, exec (.rjmp k12) s = .next t ∧ OnlyPc s t ∧ MovedBy s t (k12.toInt + 1)) ∧
    (∃ t, exec .ijmp s = .next t ∧ OnlyPc s t ∧ t.pc.toNat = 256 * (s.reg 31).toNat + (s.reg 30).toNat) ∧
    (s.dev.pcClass = .bits22 → ∃ t, exec .eijmp s = .next t ∧ OnlyPc s t ∧
      t.pc.toNat = 65536 * (s.eind.toNat % 64) + 256 * (s.reg 31).toNat + (s.reg 30).toNat) ∧
    (k.toNat < 2 ^ s.dev.pcBits → ∃ t, exec (.jmp k) s = .next t ∧ OnlyPc s t ∧ t.pc = k) ∧
    (2 ^ s.dev.pcBits ≤ k.toNat → exec (.jmp k) s = .refused (.targetBeyondPc k.toNat))

/-- Every branch completes in every state and changes nothing but pc: when its flag has the tested value pc moves by the
signed displacement plus 1, else by 1. Its word is that of its encoding, which decodes to BRBS or BRBC. That BRGE
and BRLT test the bit S, where the source prints N xor V, is an inference that R229 marks as derived; that pc wraps
modulo 2^PC_BITS is the spec's decision D2. -/
def Obligations.BranchEffect : Prop :=
  ∀ (s : State) (b : BitVec 3) (k : BitVec 7),
    ∀ f ∈ ([(.brbs b k, s.sreg.getLsbD b.toNat, 0b111100#6 ++ k ++ b),
            (.brbc b k, !s.sreg.getLsbD b.toNat, 0b111101#6 ++ k ++ b),
            (.breq k, s.flags.z, 0b111100#6 ++ k ++ 0b001#3),
            (.brne k, !s.flags.z, 0b111101#6 ++ k ++ 0b001#3),
            (.brcs k, s.flags.c, 0b111100#6 ++ k ++ 0b000#3),
            (.brcc k, !s.flags.c, 0b111101#6 ++ k ++ 0b000#3),
            (.brsh k, !s.flags.c, 0b111101#6 ++ k ++ 0b000#3),
            (.brlo k, s.flags.c, 0b111100#6 ++ k ++ 0b000#3),
            (.brmi k, s.flags.n, 0b111100#6 ++ k ++ 0b010#3),
            (.brpl k, !s.flags.n, 0b111101#6 ++ k ++ 0b010#3),
            (.brge k, !s.flags.s, 0b111101#6 ++ k ++ 0b100#3),
            (.brlt k, s.flags.s, 0b111100#6 ++ k ++ 0b100#3),
            (.brhs k, s.flags.h, 0b111100#6 ++ k ++ 0b101#3),
            (.brhc k, !s.flags.h, 0b111101#6 ++ k ++ 0b101#3),
            (.brts k, s.flags.t, 0b111100#6 ++ k ++ 0b110#3),
            (.brtc k, !s.flags.t, 0b111101#6 ++ k ++ 0b110#3),
            (.brvs k, s.flags.v, 0b111100#6 ++ k ++ 0b011#3),
            (.brvc k, !s.flags.v, 0b111101#6 ++ k ++ 0b011#3),
            (.brie k, s.flags.i, 0b111100#6 ++ k ++ 0b111#3),
            (.brid k, !s.flags.i, 0b111101#6 ++ k ++ 0b111#3)]
            : List (Instr × Bool × Word)),
      (∃ t, exec f.1 s = .next t ∧ OnlyPc s t ∧ MovedBy s t (if f.2.1 then k.toInt + 1 else 1)) ∧
      encode f.1 = [f.2.2] ∧ ∀ (core : CoreKind) (w2 : Word), decode core f.2.2 w2 = some (f.1.base core)

/-- With the condition false pc moves by 1; with it true and a word w at the next address pc moves by 2 or, when w is
the first word of a two-word instruction, by 3; nothing but pc changes; a word to be skipped that lies at or beyond
FLASH_WORDS, the second one of a two-word instruction too, is refused, and only when the condition is true: the
spec's decisions D2 and D27. -/
def Obligations.RegisterSkipEffect : Prop :=
  ∀ (s : State) (d r : Reg) (b : BitVec 3),
    ∀ f ∈ ([(.cpse d r, decide (s.reg d = s.reg r)), (.sbrc r b, !(s.reg r).getLsbD b.toNat),
            (.sbrs r b, (s.reg r).getLsbD b.toNat)] : List (Instr × Bool)),
      (f.2 = false → ∃ t, exec f.1 s = .next t ∧ OnlyPc s t ∧ MovedBy s t 1) ∧
      (∀ w, f.2 = true → s.progWord? ((s.pc.toNat + 1) % 2 ^ s.dev.pcBits) = some w →
        (skipLen w = 2 → (s.pc.toNat + 2) % 2 ^ s.dev.pcBits < s.dev.flashWords) →
        ∃ t, exec f.1 s = .next t ∧ OnlyPc s t ∧ MovedBy s t (1 + skipLen w)) ∧
      (∀ w, f.2 = true → s.progWord? ((s.pc.toNat + 1) % 2 ^ s.dev.pcBits) = some w → skipLen w = 2 →
        s.dev.flashWords ≤ (s.pc.toNat + 2) % 2 ^ s.dev.pcBits →
        exec f.1 s = .refused (.skipBeyondFlash ((s.pc.toNat + 2) % 2 ^ s.dev.pcBits))) ∧
      (f.2 = true → s.dev.flashWords ≤ (s.pc.toNat + 1) % 2 ^ s.dev.pcBits →
        exec f.1 s = .refused (.skipBeyondFlash ((s.pc.toNat + 1) % 2 ^ s.dev.pcBits)))

/-- SBIC and SBIS read the I/O register once; on the bit they test they pass one word, two or three, as the register
skips do; besides pc only the number of draws can change, and only by the read; a word to be skipped that lies at or
beyond FLASH_WORDS, the second one of a two-word instruction too, is refused, and only when the skip is taken: the
spec's decisions D2 and D27. -/
def Obligations.IoSkipEffect : Prop :=
  ∀ (s : State) (A : BitVec 5) (b : BitVec 3),
    let v := (s.ioRead (A.setWidth 6)).1
    ∀ f ∈ ([(.sbic A b, !v.getLsbD b.toNat), (.sbis A b, v.getLsbD b.toNat)] : List (Instr × Bool)),
      (f.2 = false → ∃ t, exec f.1 s = .next t ∧
        t = { s with pc := t.pc, draws := (s.ioRead (A.setWidth 6)).2.draws } ∧ MovedBy s t 1) ∧
      (∀ w, f.2 = true → s.progWord? ((s.pc.toNat + 1) % 2 ^ s.dev.pcBits) = some w →
        (skipLen w = 2 → (s.pc.toNat + 2) % 2 ^ s.dev.pcBits < s.dev.flashWords) →
        ∃ t, exec f.1 s = .next t ∧
          t = { s with pc := t.pc, draws := (s.ioRead (A.setWidth 6)).2.draws } ∧ MovedBy s t (1 + skipLen w)) ∧
      (∀ w, f.2 = true → s.progWord? ((s.pc.toNat + 1) % 2 ^ s.dev.pcBits) = some w → skipLen w = 2 →
        s.dev.flashWords ≤ (s.pc.toNat + 2) % 2 ^ s.dev.pcBits →
        exec f.1 s = .refused (.skipBeyondFlash ((s.pc.toNat + 2) % 2 ^ s.dev.pcBits))) ∧
      (f.2 = true → s.dev.flashWords ≤ (s.pc.toNat + 1) % 2 ^ s.dev.pcBits →
        exec f.1 s = .refused (.skipBeyondFlash ((s.pc.toNat + 1) % 2 ^ s.dev.pcBits)))

/-- With the stack in SRAM the four complete: the address of the next instruction is pushed, low byte first, two bytes
or three; SP moves down by as many; pc goes to the target; nothing else changes. With the stack elsewhere they do
what the push of the return address does. CALL to a target of 2^PC_BITS or more is refused. The order of the bytes
is the spec's decision D5. -/
def Obligations.CallEffect : Prop :=
  ∀ (s : State) (k12 : BitVec 12) (k : PcAddr),
    (∀ f ∈ ([(.rcall k12, 1, ((s.pc.toNat + k12.toInt + 1) % 2 ^ s.dev.pcBits).toNat),
             (.icall, 1, 256 * (s.reg 31).toNat + (s.reg 30).toNat),
             (.eicall, 1, (65536 * (s.eind.toNat % 64) + 256 * (s.reg 31).toNat + (s.reg 30).toNat) % 2 ^ s.dev.pcBits),
             (.call k, 2, k.toNat)] : List (Instr × Nat × Nat)),
      (f.1 = .call k → k.toNat < 2 ^ s.dev.pcBits) →
      ∃ ret : PcAddr, ret.toNat = (s.pc.toNat + f.2.1) % 2 ^ s.dev.pcBits ∧
        (s.stackInSram → ∃ t, exec f.1 s = .next t ∧ PushedAddress s t ret ∧
          t.pc.toNat = f.2.2 ∧ t = { s with pc := t.pc, sp := t.sp, sram := t.sram }) ∧
        (∀ u, s.pushPc ret = .ok u → ∃ t, exec f.1 s = .next t ∧ t = { u with pc := t.pc } ∧ t.pc.toNat = f.2.2) ∧
        (∀ e, s.pushPc ret = .error e → exec f.1 s = finish (.error e))) ∧
    (2 ^ s.dev.pcBits ≤ k.toNat → exec (.call k) s = .refused (.targetBeyondPc k.toNat))

/-- When SRAM holds the bytes of a return address above SP, RET and RETI complete: pc is that address, SP moves up by
two or three, RETI sets I and the delay of one instruction; nothing else changes. Wherever the stack is, they do
what the pop of the return address does: they complete where it answers an address and stop where it stops, for the
same reason. The order of the bytes is the spec's decision D5, the effect on I its decision D12. -/
def Obligations.ReturnEffect : Prop :=
  ∀ s : State,
    (∀ a : PcAddr, HoldsReturn s a → a.toNat < 2 ^ s.dev.pcBits →
      (∃ t, exec .ret s = .next t ∧ t.pc = a ∧
        t.sp = s.sp + BitVec.ofNat 16 (returnBytes s.dev a).length ∧ t = { s with pc := t.pc, sp := t.sp }) ∧
      (∃ t, exec .reti s = .next t ∧ t.pc = a ∧
        t.sp = s.sp + BitVec.ofNat 16 (returnBytes s.dev a).length ∧ t.flags = { s.flags with i := true } ∧
        t = { s with pc := t.pc, sp := t.sp, sreg := t.sreg, inhibit := true })) ∧
    (∀ u b, s.popPc = .ok (b, u) →
      (∃ t, exec .ret s = .next t ∧ t = { u with pc := t.pc } ∧ t.pc.toNat = b.toNat % 2 ^ s.dev.pcBits) ∧
      (∃ t, exec .reti s = .next t ∧ t = { u with pc := t.pc, sreg := t.sreg, inhibit := true } ∧
        t.pc.toNat = b.toNat % 2 ^ s.dev.pcBits ∧ t.flags = { u.flags with i := true })) ∧
    (∀ e, s.popPc = .error e → exec .ret s = finish (.error e) ∧ exec .reti s = finish (.error e))

/-- After RCALL, ICALL, EICALL or CALL on a stack in SRAM, RET completes with pc at the instruction after the call, SP
as before, and everything but pc and SRAM as before the call. -/
def Obligations.CallThenRetReturns : Prop :=
  ∀ (s t : State) (k12 : BitVec 12) (k : PcAddr), s.stackInSram →
    ∀ f ∈ ([(.rcall k12, 1), (.icall, 1), (.eicall, 1), (.call k, 2)] : List (Instr × Nat)),
      exec f.1 s = .next t →
      ∃ u, exec .ret t = .next u ∧ MovedBy s u f.2 ∧ u.sp = s.sp ∧ u = { s with pc := u.pc, sram := u.sram }

/-- Each load form completes when the byte at its data address can be read: below 0x20 that general register, below 0x60
that I/O register, above it the SRAM byte; Rd receives it; besides Rd and pc only the number of draws can change,
and only by an I/O read; an SRAM byte never written is a fault and an address above RAMEND is refused, which are the
spec's decisions D7 and D3; so is one after the I/O range and below RAMSTART, on a device whose SRAM starts later,
which the model infers (log entry 31, DEDUCED). The short LDS maps its 7 bits by decision D26. -/
def Obligations.LoadEffect : Prop :=
  ∀ (s : State) (d : Reg) (k : Word) (k7 : BitVec 7) (q : BitVec 6),
    ∀ f ∈ ([(.lds d k, k, 2),
            (.ldsShort d k7, BitVec.ofNat 16 (if k7.toNat / 16 % 2 = 0
              then 128 + 16 * (k7.toNat / 32 % 2) + 32 * (k7.toNat / 64) + k7.toNat % 16
              else 64 + 16 * (k7.toNat / 32 % 2) + 32 * (k7.toNat / 64) + k7.toNat % 16), 1),
            (.ldX d, BitVec.ofNat 16 (256 * (s.reg 27).toNat + (s.reg 26).toNat), 1),
            (.ldY d, BitVec.ofNat 16 (256 * (s.reg 29).toNat + (s.reg 28).toNat), 1),
            (.ldZ d, BitVec.ofNat 16 (256 * (s.reg 31).toNat + (s.reg 30).toNat), 1),
            (.lddY d q, BitVec.ofNat 16 (256 * (s.reg 29).toNat + (s.reg 28).toNat + q.toNat), 1),
            (.lddZ d q, BitVec.ofNat 16 (256 * (s.reg 31).toNat + (s.reg 30).toNat + q.toNat), 1)]
            : List (Instr × Word × Nat)),
      (∀ v u, Reads s f.2.1 v u → ∃ t, exec f.1 s = .next t ∧ t.reg d = v ∧ OtherRegs s t [d] ∧
        t = { s with regs := t.regs, pc := t.pc, draws := u.draws } ∧ MovedBy s t f.2.2) ∧
      (s.inSram f.2.1 → Memory.get? s.sram f.2.1.toNat = none → exec f.1 s = .fault (.sramUnwritten f.2.1.toNat)) ∧
      (0x60 ≤ f.2.1.toNat → s.dev.ramEnd < f.2.1.toNat →
        exec f.1 s = .refused (.dataAddressBeyondRam f.2.1.toNat)) ∧
      (0x60 ≤ f.2.1.toNat → f.2.1.toNat < s.dev.ramStart → f.2.1.toNat ≤ s.dev.ramEnd →
        exec f.1 s = .refused (.dataAddressBelowRam f.2.1.toNat))

/-- Each store form writes Rr to the data address it computes: below 0x20 that general register and no other, in SRAM
that byte and no other; in the I/O range it does what the I/O write does; above RAMEND it is refused, which is the
spec's decision D3, and so it is after the I/O range and below RAMSTART, on a device whose SRAM starts later, which
the model infers (log entry 31, DEDUCED). Besides that and pc nothing changes. -/
def Obligations.StoreEffect : Prop :=
  ∀ (s : State) (r : Reg) (k : Word) (k7 : BitVec 7) (q : BitVec 6),
    ∀ f ∈ ([(.sts k r, k, 2), (.stsShort k7 r, addr7 k7, 1), (.stX r, s.ptr .x, 1), (.stY r, s.ptr .y, 1),
            (.stZ r, s.ptr .z, 1), (.stdY q r, s.displaced .y q, 1), (.stdZ q r, s.displaced .z q, 1)]
            : List (Instr × Word × Nat)),
      (f.2.1.toNat < 0x20 → ∃ t, exec f.1 s = .next t ∧ t.reg (f.2.1.setWidth 5) = s.reg r ∧
        OtherRegs s t [f.2.1.setWidth 5] ∧ OnlyRegs s t ∧ MovedBy s t f.2.2) ∧
      (s.inSram f.2.1 → ∃ t, exec f.1 s = .next t ∧ Memory.get? t.sram f.2.1.toNat = some (s.reg r) ∧
        OtherSram s t [f.2.1.toNat] ∧ t = { s with sram := t.sram, pc := t.pc } ∧ MovedBy s t f.2.2) ∧
      (0x20 ≤ f.2.1.toNat → f.2.1.toNat < 0x60 →
        (∀ u, s.ioWrite ((f.2.1 - 0x20).setWidth 6) (s.reg r) = .ok u →
          ∃ t, exec f.1 s = .next t ∧ t = { u with pc := t.pc } ∧ MovedBy s t f.2.2) ∧
        (∀ e, s.ioWrite ((f.2.1 - 0x20).setWidth 6) (s.reg r) = .error e → exec f.1 s = finish (.error e))) ∧
      (0x60 ≤ f.2.1.toNat → s.dev.ramEnd < f.2.1.toNat →
        exec f.1 s = .refused (.dataAddressBeyondRam f.2.1.toNat)) ∧
      (0x60 ≤ f.2.1.toNat → f.2.1.toNat < s.dev.ramStart → f.2.1.toNat ≤ s.dev.ramEnd →
        exec f.1 s = .refused (.dataAddressBelowRam f.2.1.toNat))

/-- With the data register outside the pointer, the effective address not one of the pointer's registers and the byte
there readable, the six forms complete: Rd receives the byte at P, or at P − 1; P becomes P + 1, or P − 1, modulo
65536; besides Rd, P and pc only the number of draws can change. Where the read stops (an SRAM byte never written,
an address above RAMEND or, after the I/O range, below RAMSTART) the form stops for that reason: the spec's
decisions D7 and D3, for RAMSTART log entry 31. -/
def Obligations.LoadChangedPointerEffect : Prop :=
  ∀ (s u : State) (d : Reg) (v : Byte) (e : Stop),
    ∀ f ∈ ([(.ldXInc d, .x), (.ldYInc d, .y), (.ldZInc d, .z)] : List (Instr × Ptr)),
    ∀ g ∈ ([(.ldXDec d, .x), (.ldYDec d, .y), (.ldZDec d, .z)] : List (Instr × Ptr)),
      (d ≠ f.2.low → d ≠ f.2.low + 1 → f.2.at (s.ptr f.2) = false → Reads s (s.ptr f.2) v u →
        ∃ t, exec f.1 s = .next t ∧ t.reg d = v ∧ (t.ptr f.2).toNat = ((s.ptr f.2).toNat + 1) % 65536 ∧
          OtherRegs s t [d, f.2.low, f.2.low + 1] ∧
          t = { s with regs := t.regs, pc := t.pc, draws := u.draws } ∧ MovedBy s t 1) ∧
      (d ≠ f.2.low → d ≠ f.2.low + 1 → f.2.at (s.ptr f.2) = false → ReadStops s (s.ptr f.2) e →
        exec f.1 s = finish (.error e)) ∧
      (d ≠ g.2.low → d ≠ g.2.low + 1 → g.2.at (s.ptr g.2 - 1) = false → ReadStops s (s.ptr g.2 - 1) e →
        exec g.1 s = finish (.error e)) ∧
      (d ≠ g.2.low → d ≠ g.2.low + 1 → g.2.at (s.ptr g.2 - 1) = false → Reads s (s.ptr g.2 - 1) v u →
        ∃ t, exec g.1 s = .next t ∧ t.reg d = v ∧ (t.ptr g.2).toNat = ((s.ptr g.2).toNat + 65535) % 65536 ∧
          OtherRegs s t [d, g.2.low, g.2.low + 1] ∧
          t = { s with regs := t.regs, pc := t.pc, draws := u.draws } ∧ MovedBy s t 1)

/-- With the data register outside the pointer and the effective address not one of the pointer's registers, the six
forms store Rr at P, or at P − 1, and P becomes P + 1, or P − 1, modulo 65536: in SRAM that byte and no other
changes, below 0x20 that register; in the I/O range the I/O write happens. Besides that, P and pc nothing changes.
Where the write stops (a refused I/O write, an address above RAMEND or, after the I/O range, below RAMSTART) the
form stops for that reason: the spec's decision D3, for RAMSTART log entry 31. -/
def Obligations.StoreChangedPointerEffect : Prop :=
  ∀ (s : State) (r : Reg),
    ∀ f ∈ ([(.stXInc r, .x, s.ptr .x, s.ptr .x + 1), (.stYInc r, .y, s.ptr .y, s.ptr .y + 1),
            (.stZInc r, .z, s.ptr .z, s.ptr .z + 1), (.stXDec r, .x, s.ptr .x - 1, s.ptr .x - 1),
            (.stYDec r, .y, s.ptr .y - 1, s.ptr .y - 1), (.stZDec r, .z, s.ptr .z - 1, s.ptr .z - 1)]
            : List (Instr × Ptr × Word × Word)),
      r ≠ f.2.1.low → r ≠ f.2.1.low + 1 → f.2.1.at f.2.2.1 = false →
      (s.inSram f.2.2.1 → ∃ t, exec f.1 s = .next t ∧ Memory.get? t.sram f.2.2.1.toNat = some (s.reg r) ∧
        OtherSram s t [f.2.2.1.toNat] ∧ t.ptr f.2.1 = f.2.2.2 ∧ OtherRegs s t [f.2.1.low, f.2.1.low + 1] ∧
        t = { s with sram := t.sram, regs := t.regs, pc := t.pc } ∧ MovedBy s t 1) ∧
      (f.2.2.1.toNat < 0x20 → ∃ t, exec f.1 s = .next t ∧ t.reg (f.2.2.1.setWidth 5) = s.reg r ∧
        t.ptr f.2.1 = f.2.2.2 ∧ OtherRegs s t [f.2.2.1.setWidth 5, f.2.1.low, f.2.1.low + 1] ∧ OnlyRegs s t ∧
        MovedBy s t 1) ∧
      (0x20 ≤ f.2.2.1.toNat → f.2.2.1.toNat < 0x60 →
        ∀ u, s.ioWrite ((f.2.2.1 - 0x20).setWidth 6) (s.reg r) = .ok u →
          ∃ t, exec f.1 s = .next t ∧ t.ptr f.2.1 = f.2.2.2 ∧ OtherRegs s t [f.2.1.low, f.2.1.low + 1] ∧
            t = { u with regs := t.regs, pc := t.pc } ∧ MovedBy s t 1) ∧
      (∀ e, WriteStops s f.2.2.1 (s.reg r) e → exec f.1 s = finish (.error e))

/-- LD and ST with post-increment or pre-decrement and LPM and ELPM with Z+ are refused when the data register is a half
of the pointer; LD and ST are refused too when the effective address is one of the pointer's own two registers. The
refusals are the spec's decision D20. -/
def Obligations.PointerOverlapRefused : Prop :=
  ∀ (s : State) (r : Reg),
    (∀ f ∈ ([(.ldXInc r, .x, 0), (.ldYInc r, .y, 0), (.ldZInc r, .z, 0), (.stXInc r, .x, 0), (.stYInc r, .y, 0),
             (.stZInc r, .z, 0), (.ldXDec r, .x, 1), (.ldYDec r, .y, 1), (.ldZDec r, .z, 1), (.stXDec r, .x, 1),
             (.stYDec r, .y, 1), (.stZDec r, .z, 1)] : List (Instr × Ptr × Word)),
      (r = f.2.1.low ∨ r = f.2.1.low + 1 → exec f.1 s = .refused .dataRegisterInPointer) ∧
      (r ≠ f.2.1.low → r ≠ f.2.1.low + 1 →
        ((s.ptr f.2.1 - f.2.2).toNat = f.2.1.low.toNat ∨ (s.ptr f.2.1 - f.2.2).toNat = f.2.1.low.toNat + 1) →
        exec f.1 s = .refused .pointerAddressesItself)) ∧
    (r = 30 ∨ r = 31 → exec (.lpmZInc r) s = .refused .dataRegisterInPointer ∧
      exec (.elpmZInc r) s = .refused .dataRegisterInPointer)

/-- When the word at half the byte address exists, the six forms complete: the destination receives its low or high byte
as the address is even or odd; LPM addresses by Z, ELPM by RAMPZ:Z; with Z+ the address grows by 1, on 16 bits for
LPM, with the carry into the implemented bits of RAMPZ for ELPM; nothing else changes. For each of the six a word at
or beyond FLASH_WORDS is refused, with Z+ once the destination is not a half of Z. The refusal is the spec's
decision D2, the implemented bits of RAMPZ its decision D31. -/
def Obligations.ProgramLoadEffect : Prop :=
  ∀ (s : State) (d : Reg),
    let z := 256 * (s.reg 31).toNat + (s.reg 30).toNat
    let e := 65536 * s.rampz.toNat + z
    (∀ f ∈ ([(.lpm, 0, z), (.lpmZ d, d, z), (.elpm, 0, e), (.elpmZ d, d, e)] : List (Instr × Reg × Nat)),
      (∀ w, s.progWord? (f.2.2 / 2) = some w → ∃ t, exec f.1 s = .next t ∧
        (t.reg f.2.1).toNat = (if f.2.2 % 2 = 0 then w.toNat % 256 else w.toNat / 256) ∧
        OtherRegs s t [f.2.1] ∧ OnlyRegs s t ∧ MovedBy s t 1) ∧
      (s.dev.flashWords ≤ f.2.2 / 2 → exec f.1 s = .refused (.programReadBeyondFlash f.2.2))) ∧
    (d ≠ 30 → d ≠ 31 →
      (∀ w, s.progWord? (z / 2) = some w → ∃ t, exec (.lpmZInc d) s = .next t ∧
        (t.reg d).toNat = (if z % 2 = 0 then w.toNat % 256 else w.toNat / 256) ∧
        (t.ptr .z).toNat = (z + 1) % 65536 ∧ OtherRegs s t [d, 30, 31] ∧ OnlyRegs s t ∧ MovedBy s t 1) ∧
      (∀ w, s.progWord? (e / 2) = some w → ∃ t, exec (.elpmZInc d) s = .next t ∧
        (t.reg d).toNat = (if e % 2 = 0 then w.toNat % 256 else w.toNat / 256) ∧
        (t.ptr .z).toNat = (e + 1) % 65536 ∧
        t.rampz = BitVec.ofNat 8 ((e + 1) / 65536) &&& s.dev.rampzMask ∧ OtherRegs s t [d, 30, 31] ∧
        t = { s with regs := t.regs, rampz := t.rampz, pc := t.pc } ∧ MovedBy s t 1) ∧
      (s.dev.flashWords ≤ z / 2 → exec (.lpmZInc d) s = .refused (.programReadBeyondFlash z)) ∧
      (s.dev.flashWords ≤ e / 2 → exec (.elpmZInc d) s = .refused (.programReadBeyondFlash e)))

/-- IN completes in every state and changes only Rd, pc and, by a draw, the number of draws. On a consistent device it
reads SREG, SPL, SPH, RAMPZ, EIND, EEARL, EEARH, EEDR, EECR and the GPIORs at their addresses, with the
unimplemented bits of EEARH and EECR zero, EEMWE by its window and EEWE by the write in progress; anywhere else it
reads a fresh draw, by the spec's decision D19. -/
def Obligations.InEffect : Prop :=
  ∀ (s : State) (d : Reg) (A : IoAddr), s.dev.wf = true →
    ∃ t, exec (.inp d A) s = .next t ∧ OtherRegs s t [d] ∧
      t = { s with regs := t.regs, pc := t.pc, draws := t.draws } ∧ MovedBy s t 1 ∧
      (A = 0x3F → t.reg d = s.sreg) ∧
      (A = s.dev.splAddr → (t.reg d).toNat = s.sp.toNat % 256) ∧
      (A = s.dev.sphAddr → (t.reg d).toNat = s.sp.toNat / 256) ∧
      (s.dev.hasRampz = true → A = s.dev.rampzAddr → t.reg d = s.rampz) ∧
      (s.dev.hasEind = true → A = s.dev.eindAddr → t.reg d = s.eind) ∧
      (A = s.dev.eearlAddr → (t.reg d).toNat = s.eear.toNat % 256) ∧
      (A = s.dev.eearhAddr → (t.reg d).toNat = s.eear.toNat / 256) ∧
      (A = s.dev.eedrAddr → t.reg d = s.eedr) ∧
      (A = s.dev.eecrAddr → ∃ m : Bool,
        (t.reg d).toNat = 8 * s.eerie.toNat + 4 * m.toNat + 2 * s.eeWrite.isSome.toNat ∧
        (s.window = .closed → m = false) ∧ (s.window = .opened 0 ∨ s.window = .opened 1 → m = true)) ∧
      (∀ k : Fin 3, s.dev.gpiorAddrs[k.val]? = some A → t.reg d = s.gpior[k.val]) ∧
      (A ∉ s.dev.describedAddrs → t.reg d = Config.ioByte s.draws ∧ t.draws = s.draws + 1)

/-- On a consistent device OUT writes SREG, either half of SP, the implemented bits of RAMPZ and EIND, a GPIOR, and,
with no EEPROM write in progress, EEARL, the two implemented bits of EEARH, and EEDR; a write of EECR with bits 0, 1
and 2 clear writes EERIE from bit 3 and closes the EEMWE window; a write anywhere else but EECR is recorded and
changes nothing else; with a write in progress a write of EEARL, EEARH or EEDR is refused, which is the spec's
decision D40. -/
def Obligations.OutEffect : Prop :=
  ∀ (s : State) (r : Reg) (A : IoAddr), s.dev.wf = true →
    (A = 0x3F → ∃ t, exec (.out A r) s = .next t ∧ t = { s with sreg := s.reg r, pc := t.pc } ∧ MovedBy s t 1) ∧
    (A = s.dev.splAddr → ∃ t, exec (.out A r) s = .next t ∧ t = { s with sp := t.sp, pc := t.pc } ∧ MovedBy s t 1 ∧
      t.sp.toNat = 256 * (s.sp.toNat / 256) + (s.reg r).toNat) ∧
    (A = s.dev.sphAddr → ∃ t, exec (.out A r) s = .next t ∧ t = { s with sp := t.sp, pc := t.pc } ∧ MovedBy s t 1 ∧
      t.sp.toNat = 256 * (s.reg r).toNat + s.sp.toNat % 256) ∧
    (s.dev.hasRampz = true → A = s.dev.rampzAddr → ∃ t, exec (.out A r) s = .next t ∧
      t = { s with rampz := s.reg r &&& s.dev.rampzMask, pc := t.pc } ∧ MovedBy s t 1) ∧
    (s.dev.hasEind = true → A = s.dev.eindAddr → ∃ t, exec (.out A r) s = .next t ∧
      t = { s with eind := s.reg r &&& 0x3F, pc := t.pc } ∧ MovedBy s t 1) ∧
    (∀ k : Fin 3, s.dev.gpiorAddrs[k.val]? = some A → ∃ t, exec (.out A r) s = .next t ∧
      t = { s with gpior := s.gpior.set k.val (s.reg r), pc := t.pc } ∧ MovedBy s t 1) ∧
    (s.eeWrite = none → A = s.dev.eearlAddr → ∃ t, exec (.out A r) s = .next t ∧
      t = { s with eear := t.eear, pc := t.pc } ∧ MovedBy s t 1 ∧
      t.eear.toNat = 256 * (s.eear.toNat / 256) + (s.reg r).toNat) ∧
    (s.eeWrite = none → A = s.dev.eearhAddr → ∃ t, exec (.out A r) s = .next t ∧
      t = { s with eear := t.eear, pc := t.pc } ∧ MovedBy s t 1 ∧
      t.eear.toNat = 256 * ((s.reg r).toNat % 4) + s.eear.toNat % 256) ∧
    (s.eeWrite = none → A = s.dev.eedrAddr → ∃ t, exec (.out A r) s = .next t ∧
      t = { s with eedr := s.reg r, pc := t.pc } ∧ MovedBy s t 1) ∧
    (s.eeWrite ≠ none → A = s.dev.eearlAddr ∨ A = s.dev.eearhAddr ∨ A = s.dev.eedrAddr →
      exec (.out A r) s = .refused .eepromRegisterWhileBusy) ∧
    (A = s.dev.eecrAddr → (s.reg r).getLsbD 0 = false → (s.reg r).getLsbD 1 = false → (s.reg r).getLsbD 2 = false →
      ∃ t, exec (.out A r) s = .next t ∧
        t = { s with eerie := (s.reg r).getLsbD 3, window := .closed, pc := t.pc } ∧ MovedBy s t 1) ∧
    (A ∉ s.dev.describedAddrs → ∃ t, exec (.out A r) s = .next t ∧
      t = { s with ioLog := s.ioLog ++ [.byte A (s.reg r)], pc := t.pc } ∧ MovedBy s t 1)

/-- LDS and LD through X with the data address i give Rd what MOV from Ri gives it, and STS and ST through X to it
change Ri as MOV to Ri does; only pc differs, by the length of the instruction. Data addresses 0x00 to 0x1F are all
covered. -/
def Obligations.GeneralRegistersAreDataSpace : Prop :=
  ∀ (s : State) (i r : Reg),
    (∃ t u, exec (.lds r (BitVec.ofNat 16 i.toNat)) s = .next t ∧ exec (.mov r i) s = .next u ∧
      t = { u with pc := t.pc } ∧ MovedBy s t 2 ∧ MovedBy s u 1) ∧
    (∃ t u, exec (.sts (BitVec.ofNat 16 i.toNat) r) s = .next t ∧ exec (.mov i r) s = .next u ∧
      t = { u with pc := t.pc } ∧ MovedBy s t 2 ∧ MovedBy s u 1) ∧
    (s.reg 27 = 0 → (s.reg 26).toNat = i.toNat →
      exec (.ldX r) s = exec (.mov r i) s ∧ exec (.stX r) s = exec (.mov i r) s)

/-- LDS of the data address A + 0x20 gives Rd the value, and leaves the rest of the state, that IN of A does, and STS to
it does what OUT to A does, refusals included; only pc differs, by one word. -/
def Obligations.IoRegistersAreDataSpace : Prop :=
  ∀ (s : State) (r : Reg) (A : IoAddr),
    (∃ t u, exec (.lds r (BitVec.ofNat 16 (A.toNat + 0x20))) s = .next t ∧ exec (.inp r A) s = .next u ∧
      t = { u with pc := t.pc } ∧ MovedBy s t 2 ∧ MovedBy s u 1) ∧
    (∀ u, exec (.out A r) s = .next u → ∃ t, exec (.sts (BitVec.ofNat 16 (A.toNat + 0x20)) r) s = .next t ∧
      t = { u with pc := t.pc } ∧ MovedBy s t 2 ∧ MovedBy s u 1) ∧
    (∀ e, exec (.out A r) s = .refused e → exec (.sts (BitVec.ofNat 16 (A.toNat + 0x20)) r) s = .refused e)

/-- On a consistent device SBI and CBI change the one bit of a GPIOR and keep the other seven; at an address the device
does not describe the change of the one bit is recorded and nothing else; in EECR bit 3 sets or clears EERIE alone,
CBI of bit 2 closes the EEMWE window, CBI of bits 1 and 0 and both on bits 4 to 7 change nothing. At any other
register they do what the write of its byte with the one bit changed does. That no other bit is read or written is
the spec's decision D38. -/
def Obligations.IoBitEffect : Prop :=
  ∀ (s : State) (A : BitVec 5) (b : BitVec 3), s.dev.wf = true →
    ∀ f ∈ ([(.sbi A b, true), (.cbi A b, false)] : List (Instr × Bool)),
      (∀ k : Fin 3, s.dev.gpiorAddrs[k.val]? = some (A.setWidth 6) → ∃ t, exec f.1 s = .next t ∧
        (∀ j, j < 8 → (t.gpior[k.val]).getLsbD j = if j = b.toNat then f.2 else (s.gpior[k.val]).getLsbD j) ∧
        t = { s with gpior := s.gpior.set k.val t.gpior[k.val], pc := t.pc } ∧ MovedBy s t 1) ∧
      (A.setWidth 6 ∉ s.dev.describedAddrs → ∃ t, exec f.1 s = .next t ∧
        t = { s with ioLog := s.ioLog ++ [.bit (A.setWidth 6) b f.2], pc := t.pc } ∧ MovedBy s t 1) ∧
      (A.setWidth 6 = s.dev.eecrAddr →
        (b = 3 → ∃ t, exec f.1 s = .next t ∧ t = { s with eerie := f.2, pc := t.pc } ∧ MovedBy s t 1) ∧
        (b = 2 → f.2 = false → ∃ t, exec f.1 s = .next t ∧ t = { s with window := .closed, pc := t.pc } ∧
          MovedBy s t 1) ∧
        (4 ≤ b.toNat ∨ (b.toNat ≤ 1 ∧ f.2 = false) → ∃ t, exec f.1 s = .next t ∧ OnlyPc s t ∧ MovedBy s t 1)) ∧
      (A.setWidth 6 ∈ s.dev.describedAddrs → A.setWidth 6 ≠ s.dev.eecrAddr →
        (∀ u, s.ioWrite (A.setWidth 6) (withBit (s.ioRead (A.setWidth 6)).1 b f.2) = .ok u →
          ∃ t, exec f.1 s = .next t ∧ t = { u with pc := t.pc } ∧ MovedBy s t 1) ∧
        (∀ e, s.ioWrite (A.setWidth 6) (withBit (s.ioRead (A.setWidth 6)).1 b f.2) = .error e →
          exec f.1 s = finish (.error e)))

/-- PUSH stores Rr at the data address SP and then decrements SP modulo 65536: in SRAM that byte and no other changes;
below 0x20 that register; in the I/O range the I/O write happens; a push onto SPL or SPH itself or above RAMEND is
refused, and where the I/O write is refused, or the address lies after the I/O range and below RAMSTART (log entry
31), the push is refused for that reason. Besides that and pc nothing changes. Store before decrement is the spec's
decision D4, the refusals its decisions D20 and D3. -/
def Obligations.PushEffect : Prop :=
  ∀ (s : State) (r : Reg),
    (s.inSram s.sp → ∃ t, exec (.push r) s = .next t ∧ Memory.get? t.sram s.sp.toNat = some (s.reg r) ∧
      OtherSram s t [s.sp.toNat] ∧ t.sp.toNat = (s.sp.toNat + 65535) % 65536 ∧
      t = { s with sram := t.sram, sp := t.sp, pc := t.pc } ∧ MovedBy s t 1) ∧
    (s.sp.toNat < 0x20 → ∃ t, exec (.push r) s = .next t ∧ t.reg (s.sp.setWidth 5) = s.reg r ∧
      OtherRegs s t [s.sp.setWidth 5] ∧ t.sp.toNat = (s.sp.toNat + 65535) % 65536 ∧
      t = { s with regs := t.regs, sp := t.sp, pc := t.pc } ∧ MovedBy s t 1) ∧
    (s.sp.toNat = s.dev.splAddr.toNat + 0x20 ∨ s.sp.toNat = s.dev.sphAddr.toNat + 0x20 →
      exec (.push r) s = .refused .stackOnStackPointer) ∧
    (0x20 ≤ s.sp.toNat → s.sp.toNat < 0x60 → s.sp.toNat ≠ s.dev.splAddr.toNat + 0x20 →
      s.sp.toNat ≠ s.dev.sphAddr.toNat + 0x20 →
      ∀ u, s.ioWrite ((s.sp - 0x20).setWidth 6) (s.reg r) = .ok u → ∃ t, exec (.push r) s = .next t ∧
        t.sp.toNat = (s.sp.toNat + 65535) % 65536 ∧ t = { u with sp := t.sp, pc := t.pc } ∧ MovedBy s t 1) ∧
    (0x60 ≤ s.sp.toNat → s.dev.ramEnd < s.sp.toNat →
      exec (.push r) s = .refused (.dataAddressBeyondRam s.sp.toNat)) ∧
    (s.sp.toNat ≠ s.dev.splAddr.toNat + 0x20 → s.sp.toNat ≠ s.dev.sphAddr.toNat + 0x20 →
      ∀ e, WriteStops s s.sp (s.reg r) e → exec (.push r) s = finish (.error e))

/-- POP increments SP modulo 65536 and loads Rd from the data address it then holds; besides Rd, SP and pc only the
number of draws can change; a pop from SPL or SPH itself is refused, one of an SRAM byte never written is a fault,
and one from above RAMEND or, after the I/O range, below RAMSTART (log entry 31) is refused. A POP after a PUSH on a
stack in SRAM gives back the byte and SP. Increment before load is the spec's decision D4, the stops its decisions
D20, D7 and D3. -/
def Obligations.PopEffect : Prop :=
  ∀ (s : State) (d : Reg),
    (s.sp + 1 ≠ BitVec.ofNat 16 (s.dev.splAddr.toNat + 0x20) →
      s.sp + 1 ≠ BitVec.ofNat 16 (s.dev.sphAddr.toNat + 0x20) →
      ∀ v u, Reads { s with sp := s.sp + 1 } (s.sp + 1) v u → ∃ t, exec (.pop d) s = .next t ∧ t.reg d = v ∧
        OtherRegs s t [d] ∧ t.sp.toNat = (s.sp.toNat + 1) % 65536 ∧
        t = { s with regs := t.regs, sp := t.sp, pc := t.pc, draws := u.draws } ∧ MovedBy s t 1) ∧
    (s.sp + 1 = BitVec.ofNat 16 (s.dev.splAddr.toNat + 0x20) ∨ s.sp + 1 = BitVec.ofNat 16 (s.dev.sphAddr.toNat + 0x20) →
      exec (.pop d) s = .refused .stackOnStackPointer) ∧
    (∀ e, ReadStops s (s.sp + 1) e → exec (.pop d) s = finish (.error e)) ∧
    (∀ (t : State) (r : Reg), s.inSram s.sp → exec (.push r) s = .next t →
      ∃ u, exec (.pop d) t = .next u ∧ u.reg d = s.reg r ∧ OtherRegs s u [d] ∧ u.sp = s.sp)

/-- XCH completes when the byte at Z can be read and written: in SRAM that byte becomes Rd and Rd that byte; for a
register address the two registers change places; in the I/O range the register is read and then written. Besides
that and pc nothing changes. An SRAM byte never written is a fault, an address above RAMEND or, after the I/O range,
below RAMSTART (log entry 31) is refused, and so is an exchange whose I/O write is refused, for the same reason. The
stops in memory are the spec's decisions D7 and D3. -/
def Obligations.ExchangeEffect : Prop :=
  ∀ (s : State) (d : Reg),
    (∀ v, s.inSram (s.ptr .z) → Memory.get? s.sram (s.ptr .z).toNat = some v → ∃ t, exec (.xch d) s = .next t ∧
      t.reg d = v ∧ Memory.get? t.sram (s.ptr .z).toNat = some (s.reg d) ∧ OtherSram s t [(s.ptr .z).toNat] ∧
      OtherRegs s t [d] ∧ t = { s with sram := t.sram, regs := t.regs, pc := t.pc } ∧ MovedBy s t 1) ∧
    ((s.ptr .z).toNat < 0x20 → ∃ t, exec (.xch d) s = .next t ∧ t.reg d = s.reg ((s.ptr .z).setWidth 5) ∧
      t.reg ((s.ptr .z).setWidth 5) = s.reg d ∧ OtherRegs s t [d, (s.ptr .z).setWidth 5] ∧ OnlyRegs s t ∧
      MovedBy s t 1) ∧
    (0x20 ≤ (s.ptr .z).toNat → (s.ptr .z).toNat < 0x60 → ∀ v u w, (v, u) = s.ioRead ((s.ptr .z - 0x20).setWidth 6) →
      u.ioWrite ((s.ptr .z - 0x20).setWidth 6) (s.reg d) = .ok w → ∃ t, exec (.xch d) s = .next t ∧
        t.reg d = v ∧ OtherRegs s t [d] ∧ t = { w with regs := t.regs, pc := t.pc } ∧ MovedBy s t 1) ∧
    (0x20 ≤ (s.ptr .z).toNat → (s.ptr .z).toNat < 0x60 → ∀ e,
      (s.ioRead ((s.ptr .z - 0x20).setWidth 6)).2.ioWrite ((s.ptr .z - 0x20).setWidth 6) (s.reg d) = .error e →
      exec (.xch d) s = finish (.error e)) ∧
    (∀ e, ReadStops s (s.ptr .z) e → exec (.xch d) s = finish (.error e))

/-- SPM and SPM Z+ are words of instructions, and executing either is refused by name in every state: the spec's
decision D16. -/
def Obligations.SpmIsRefused : Prop :=
  decode .classic 0x95E8 0 = some .spm ∧ decode .classic 0x95F8 0 = some .spmZInc ∧
  ∀ s : State, exec .spm s = .refused .spm ∧ exec .spmZInc s = .refused .spmZPlus

/-- NOP and WDR complete in every state and change nothing but pc; SLEEP advances pc and makes the processor sleep, so
that with no interrupt to take the next step, of a processor not halted, executes nothing; BREAK, where the device
has it, changes nothing but pc when BREAK_MODE is nop, and when it is stop ends the run: pc stays at the BREAK,
nothing changes but that the processor is halted, and from then on a step is only the other agents' moves, whatever
is pending. R405 says that the waiting processor makes no step: that the model makes one is the model's choice (log
entry 24, DESIGN CHOICE), and so is how the end of the run is shown (log entry 23, DESIGN CHOICE). Decisions D13,
D14 and D15 of the spec. -/
def Obligations.ControlEffect : Prop :=
  ∀ s : State,
    (∃ t, exec .nop s = .next t ∧ OnlyPc s t ∧ MovedBy s t 1) ∧
    (∃ t, exec .wdr s = .next t ∧ OnlyPc s t ∧ MovedBy s t 1) ∧
    (∃ t, exec .sleep s = .next t ∧ t = { s with pc := t.pc, sleeping := true } ∧ MovedBy s t 1 ∧
      (t.agents.sampled = none → t.halted = false → ∃ u, step t = .next u ∧ u.pc = t.pc ∧ u.regs = t.regs ∧ u.sreg = t.sreg ∧
        u.sram = t.sram ∧ u.sp = t.sp ∧ u.sleeping = true)) ∧
    (s.dev.hasBreak = true → s.dev.breakMode = .nop → ∃ t, exec .brk s = .next t ∧ OnlyPc s t ∧ MovedBy s t 1) ∧
    (s.dev.hasBreak = true → s.dev.breakMode = .stop → exec .brk s = .next { s with halted := true } ∧
      step { s with halted := true } = .next { s with halted := true }.agents)

/-- On a consistent device with no write in progress and EEAR inside the EEPROM, SBI of EECR bit 0 writes EEDR with the
addressed byte and changes nothing else but pc; OUT of a value with bit 0 set and bits 1 and 2 clear does the same,
writes EERIE from bit 3 and closes the EEMWE window; with bit 2 set too and the window closed it opens the window
instead. That the read is complete within the instruction is the spec's decision D39. -/
def Obligations.EepromReadEffect : Prop :=
  ∀ (s : State) (A : BitVec 5) (r : Reg), s.dev.wf = true → A.setWidth 6 = s.dev.eecrAddr → s.eeWrite = none →
    s.eear.toNat < s.dev.eepromBytes →
    (∃ t, exec (.sbi A 0) s = .next t ∧ MovedBy s t 1 ∧
      t = { s with eedr := (Memory.get? s.eeprom s.eear.toNat).getD 0xFF, pc := t.pc }) ∧
    ((s.reg r).getLsbD 0 = true → (s.reg r).getLsbD 1 = false → (s.reg r).getLsbD 2 = false →
      ∃ t, exec (.out s.dev.eecrAddr r) s = .next t ∧ MovedBy s t 1 ∧
        t = { s with eedr := (Memory.get? s.eeprom s.eear.toNat).getD 0xFF, eerie := (s.reg r).getLsbD 3,
                     window := .closed, pc := t.pc }) ∧
    ((s.reg r).getLsbD 0 = true → (s.reg r).getLsbD 1 = false → (s.reg r).getLsbD 2 = true → s.window = .closed →
      ∃ t, exec (.out s.dev.eecrAddr r) s = .next t ∧ MovedBy s t 1 ∧
        t = { s with eedr := (Memory.get? s.eeprom s.eear.toNat).getD 0xFF, eerie := (s.reg r).getLsbD 3,
                     window := .opened 0, pc := t.pc })

/-- On a consistent device with the window closed, no write in progress and EEAR inside the EEPROM, the instruction that
sets EEMWE alone opens the window and the next instruction, which sets EEWE, starts the write: SBI of EECR bit 2 and
SBI of bit 1, or OUT of a value with bit 2 set and bits 0 and 1 clear and OUT of one with bit 1 set and bit 0 clear.
Both complete and leave a write in progress with EEAR and EEDR latched and the window closed; nothing else changes
but pc, the number of draws and, for OUT, EERIE, which is bit 3 of the value. The count in instructions is the
spec's decision D36. -/
def Obligations.EepromWriteSequence : Prop :=
  ∀ (s : State) (A : BitVec 5) (r q : Reg), s.dev.wf = true → A.setWidth 6 = s.dev.eecrAddr → s.eeWrite = none →
    s.window = .closed → s.eear.toNat < s.dev.eepromBytes →
    (∃ t u w, exec (.sbi A 2) s = .next t ∧ t = { s with window := .opened 0, pc := t.pc } ∧ MovedBy s t 1 ∧
      exec (.sbi A 1) t.beginInstr = .next u ∧ MovedBy s u 2 ∧
      u.eeWrite = some w ∧ w.addr = s.eear ∧ w.data = s.eedr ∧
      u = { s with pc := u.pc, inhibit := false, eeWrite := u.eeWrite, window := .closed, draws := u.draws }) ∧
    ((s.reg r).getLsbD 0 = false → (s.reg r).getLsbD 1 = false → (s.reg r).getLsbD 2 = true →
      (s.reg q).getLsbD 0 = false → (s.reg q).getLsbD 1 = true →
      ∃ t u w, exec (.out s.dev.eecrAddr r) s = .next t ∧ MovedBy s t 1 ∧
        t = { s with window := .opened 0, eerie := (s.reg r).getLsbD 3, pc := t.pc } ∧
        exec (.out s.dev.eecrAddr q) t.beginInstr = .next u ∧ MovedBy s u 2 ∧
        u.eeWrite = some w ∧ w.addr = s.eear ∧ w.data = s.eedr ∧
        u = { s with pc := u.pc, inhibit := false, eeWrite := u.eeWrite, window := .closed, draws := u.draws,
                     eerie := (s.reg q).getLsbD 3 })

/-- With EEMWE set n instructions earlier and no write in progress: for n from 2 to 4 setting EEWE is refused, by SBI
and by OUT of a value with bit 1 set and bit 0 clear; for n up to 4 setting EEMWE again is refused, by SBI and by
OUT of a value with bit 2 set and bit 1 clear; for n of 5 or more the window is closed, setting EEWE alone starts
nothing, setting EEMWE opens the window, and OUT of a value that sets both is refused. What completes changes
nothing else but pc and, for OUT, EERIE, which is bit 3 of the value. The window in instructions is the spec's
decisions D36 and D37. -/
def Obligations.EemweWindowCloses : Prop :=
  ∀ (s : State) (A : BitVec 5) (r : Reg) (n : Nat), s.dev.wf = true → A.setWidth 6 = s.dev.eecrAddr → s.eeWrite = none →
    s.window = EemweWindow.aged^[n] (.opened 0) →
    (2 ≤ n → n ≤ 4 → exec (.sbi A 1) s = .refused .eeweLate ∧
      ((s.reg r).getLsbD 0 = false → (s.reg r).getLsbD 1 = true →
        exec (.out s.dev.eecrAddr r) s = .refused .eeweLate)) ∧
    (n ≤ 4 → exec (.sbi A 2) s = .refused .eemweReopened ∧
      ((s.reg r).getLsbD 1 = false → (s.reg r).getLsbD 2 = true →
        exec (.out s.dev.eecrAddr r) s = .refused .eemweReopened)) ∧
    (5 ≤ n → s.window = .closed ∧ (∃ t, exec (.sbi A 1) s = .next t ∧ OnlyPc s t ∧ MovedBy s t 1) ∧
      (∃ t, exec (.sbi A 2) s = .next t ∧ t = { s with window := .opened 0, pc := t.pc } ∧ MovedBy s t 1) ∧
      ((s.reg r).getLsbD 0 = false → (s.reg r).getLsbD 1 = true → (s.reg r).getLsbD 2 = true →
        exec (.out s.dev.eecrAddr r) s = .refused .eeweWithEemwe) ∧
      ((s.reg r).getLsbD 0 = false → (s.reg r).getLsbD 1 = true → (s.reg r).getLsbD 2 = false →
        ∃ t, exec (.out s.dev.eecrAddr r) s = .next t ∧ t = { s with eerie := (s.reg r).getLsbD 3, pc := t.pc } ∧
          MovedBy s t 1) ∧
      ((s.reg r).getLsbD 0 = false → (s.reg r).getLsbD 1 = false → (s.reg r).getLsbD 2 = true →
        ∃ t, exec (.out s.dev.eecrAddr r) s = .next t ∧ MovedBy s t 1 ∧
          t = { s with eerie := (s.reg r).getLsbD 3, window := .opened 0, pc := t.pc }))

/-- While a write is in progress the programmer leaves the EEPROM alone for the drawn number of moves and then, in one
move, writes the latched byte at the latched address, leaves every other byte and ends the write. A processor that
BREAK has halted, BREAK_MODE being stop, only waits for that: its steps are the agents' moves, and when the write
has ended the state is final. The spec's decision D24 says only that the wait is finite and unbounded: that it is a
number of moves drawn when the write starts, and the write ends at the move after them, is the model's choice (log
entry 10, DESIGN CHOICE); so is the halted processor whose steps are the agents' moves (log entry 23, DESIGN
CHOICE). -/
def Obligations.ProgrammerCompletesTheWrite : Prop :=
  ∀ (s : State) (w : EeWrite), s.Inv → s.eeWrite = some w →
    (∀ k, k ≤ w.wait → (State.programmerMove^[k] s).busy = true ∧ (State.programmerMove^[k] s).eeprom = s.eeprom) ∧
    (State.programmerMove^[w.wait + 1] s).busy = false ∧
    (∀ a, (Memory.get? (State.programmerMove^[w.wait + 1] s).eeprom a).getD 0xFF =
      if a = w.addr.toNat then w.data else (Memory.get? s.eeprom a).getD 0xFF) ∧
    (s.halted = true → s.dev.breakMode = .stop → s.progWord? s.pc.toNat = some 0x9598 →
      (∀ k, step (State.agents^[k] s) = .next (State.agents^[k + 1] s)) ∧
      (∀ k, k ≤ w.wait → (State.agents^[k] s).final = false) ∧ (State.agents^[w.wait + 1] s).final = true)

/-- On a consistent device: with a write in progress setting EERE is refused and setting EEWE changes nothing but pc
and, by OUT, EERIE, and setting EEMWE with the window closed opens it; OUT to EECR of a value with EEWE and EERE
both set is refused; an EEPROM read, or in the instruction after EEMWE was set the start of a write, with EEAR at or
beyond EEPROM_BYTES is refused. All of this for SBI and for OUT. The refusals and what EEMWE does during a write are
the spec's decisions D33 and D39. -/
def Obligations.EepromProtocolRefusals : Prop :=
  ∀ (s : State) (A : BitVec 5) (r : Reg), s.dev.wf = true → A.setWidth 6 = s.dev.eecrAddr →
    (s.eeWrite ≠ none → exec (.sbi A 0) s = .refused .eereWhileBusy ∧
      (∃ t, exec (.sbi A 1) s = .next t ∧ OnlyPc s t ∧ MovedBy s t 1) ∧
      (s.window = .closed → ∃ t, exec (.sbi A 2) s = .next t ∧ t = { s with window := .opened 0, pc := t.pc } ∧
        MovedBy s t 1) ∧
      ((s.reg r).getLsbD 0 = true → (s.reg r).getLsbD 1 = false →
        ((s.reg r).getLsbD 2 = true → s.window = .closed) →
        exec (.out s.dev.eecrAddr r) s = .refused .eereWhileBusy) ∧
      ((s.reg r).getLsbD 0 = false → (s.reg r).getLsbD 1 = true → ∃ t, exec (.out s.dev.eecrAddr r) s = .next t ∧
        t = { s with eerie := (s.reg r).getLsbD 3, pc := t.pc } ∧ MovedBy s t 1) ∧
      ((s.reg r).getLsbD 0 = false → (s.reg r).getLsbD 1 = false → (s.reg r).getLsbD 2 = true → s.window = .closed →
        ∃ t, exec (.out s.dev.eecrAddr r) s = .next t ∧ MovedBy s t 1 ∧
          t = { s with eerie := (s.reg r).getLsbD 3, window := .opened 0, pc := t.pc })) ∧
    ((s.reg r).getLsbD 0 = true → (s.reg r).getLsbD 1 = true →
      exec (.out s.dev.eecrAddr r) s = .refused .eeweWithEere) ∧
    (s.eeWrite = none → s.dev.eepromBytes ≤ s.eear.toNat →
      exec (.sbi A 0) s = .refused (.eepromAddressBeyondEnd s.eear.toNat) ∧
      ((s.reg r).getLsbD 0 = true → (s.reg r).getLsbD 1 = false →
        ((s.reg r).getLsbD 2 = true → s.window = .closed) →
        exec (.out s.dev.eecrAddr r) s = .refused (.eepromAddressBeyondEnd s.eear.toNat)) ∧
      (s.window = .opened 1 → exec (.sbi A 1) s = .refused (.eepromAddressBeyondEnd s.eear.toNat) ∧
        ((s.reg r).getLsbD 0 = false → (s.reg r).getLsbD 1 = true →
          exec (.out s.dev.eecrAddr r) s = .refused (.eepromAddressBeyondEnd s.eear.toNat))))
end

