-- ==== Sys2Proof/Laws/Memory.lean ====
section
/-! SUPPORT. Memory: what a write changes, and that every memory operation keeps the canonical form. -/

namespace Sys2Proof.Machine

theorem Memory.get?_put (m : Memory) (a b : Nat) (v : Byte) :
    Memory.get? (Memory.put m a v) b = if b = a then some v else Memory.get? m b := by
  induction m with
  | nil => simp [Memory.put, Memory.get?]
  | cons c m ih =>
    obtain ⟨k, w⟩ := c
    simp only [Memory.put]
    split
    · simp [Memory.get?]
    · split
      · rename_i h; subst h; simp only [Memory.get?]; split <;> rfl
      · simp only [Memory.get?, ih]; split <;> split <;> simp_all

theorem Memory.get?_eq_none_of_risesAbove {k : Nat} {m : Memory} (h : Memory.risesAbove k m = true) {a : Nat}
    (ha : a ≤ k) : Memory.get? m a = none := by
  induction m generalizing k with
  | nil => rfl
  | cons c m ih =>
    obtain ⟨j, w⟩ := c
    simp only [Memory.risesAbove, Bool.and_eq_true, decide_eq_true_eq] at h
    simp only [Memory.get?]
    rw [if_neg (by omega), ih h.2 (by omega)]

theorem Memory.rising_cons {k : Nat} {v : Byte} {m : Memory} :
    Memory.rising ((k, v) :: m) = Memory.risesAbove k m := rfl

theorem Memory.rising_of_risesAbove {k : Nat} {m : Memory} (h : Memory.risesAbove k m = true) :
    Memory.rising m = true := by
  cases m with
  | nil => rfl
  | cons c m => simp only [Memory.risesAbove, Bool.and_eq_true] at h; exact h.2

theorem Memory.risesAbove_mono {k j : Nat} {m : Memory} (h : Memory.risesAbove k m = true) (hj : j ≤ k) :
    Memory.risesAbove j m = true := by
  cases m with
  | nil => rfl
  | cons c m =>
    simp only [Memory.risesAbove, Bool.and_eq_true, decide_eq_true_eq] at h ⊢
    exact ⟨by omega, h.2⟩

theorem Memory.get?_drop {m : Memory} (hm : Memory.rising m = true) (a b : Nat) :
    Memory.get? (Memory.drop m a) b = if b = a then none else Memory.get? m b := by
  induction m with
  | nil => simp [Memory.drop, Memory.get?]
  | cons c m ih =>
    obtain ⟨k, w⟩ := c
    rw [Memory.rising_cons] at hm
    simp only [Memory.drop]
    split
    · rename_i h; subst h
      split
      · rename_i hb; subst hb; exact Memory.get?_eq_none_of_risesAbove hm (Nat.le_refl _)
      · rename_i hb; simp [Memory.get?, hb]
    · simp only [Memory.get?, ih (Memory.rising_of_risesAbove hm)]; split <;> split <;> simp_all

/-- A read after a write of an erasable memory. -/
theorem Memory.read_write {m : Memory} (hm : Memory.rising m = true) (a b : Nat) (v : Byte) :
    Memory.read (Memory.write m a v) b = if b = a then v else Memory.read m b := by
  unfold Memory.read Memory.write
  split
  · rename_i h; rw [Memory.get?_drop hm]; split <;> simp [h]
  · rw [Memory.get?_put]; split <;> rfl

theorem Memory.risesAbove_put {k : Nat} {m : Memory} (h : Memory.risesAbove k m = true) {a : Nat} (ha : k < a)
    (v : Byte) : Memory.risesAbove k (Memory.put m a v) = true := by
  induction m generalizing k with
  | nil => simp [Memory.put, Memory.risesAbove, ha]
  | cons c m ih =>
    obtain ⟨j, w⟩ := c
    simp only [Memory.risesAbove, Bool.and_eq_true, decide_eq_true_eq] at h
    simp only [Memory.put]
    split
    · simp_all [Memory.risesAbove]
    · split
      · simp_all [Memory.risesAbove]
      · simp only [Memory.risesAbove, Bool.and_eq_true, decide_eq_true_eq]
        exact ⟨h.1, ih h.2 (by omega)⟩

theorem Memory.rising_put {m : Memory} (h : Memory.rising m = true) (a : Nat) (v : Byte) :
    Memory.rising (Memory.put m a v) = true := by
  cases m with
  | nil => rfl
  | cons c m =>
    obtain ⟨j, w⟩ := c
    rw [Memory.rising_cons] at h
    simp only [Memory.put]
    split
    · rename_i hlt; simp [Memory.rising, Memory.risesAbove, hlt, h]
    · split
      · rename_i he; subst he; exact h
      · exact Memory.risesAbove_put h (by omega) v

theorem Memory.risesAbove_drop {k : Nat} {m : Memory} (h : Memory.risesAbove k m = true) (a : Nat) :
    Memory.risesAbove k (Memory.drop m a) = true := by
  induction m generalizing k with
  | nil => rfl
  | cons c m ih =>
    obtain ⟨j, w⟩ := c
    simp only [Memory.risesAbove, Bool.and_eq_true, decide_eq_true_eq] at h
    simp only [Memory.drop]
    split
    · exact Memory.risesAbove_mono h.2 (by omega)
    · simp only [Memory.risesAbove, Bool.and_eq_true, decide_eq_true_eq]
      exact ⟨h.1, ih h.2⟩

theorem Memory.rising_drop {m : Memory} (h : Memory.rising m = true) (a : Nat) :
    Memory.rising (Memory.drop m a) = true := by
  cases m with
  | nil => rfl
  | cons c m =>
    obtain ⟨j, w⟩ := c
    rw [Memory.rising_cons] at h
    simp only [Memory.drop]
    split
    · exact Memory.rising_of_risesAbove h
    · exact Memory.risesAbove_drop h a

theorem Memory.mem_put {m : Memory} {a : Nat} {v : Byte} {c : Host.Cell} (h : c ∈ Memory.put m a v) :
    c = (a, v) ∨ c ∈ m := by
  induction m with
  | nil => simpa [Memory.put] using h
  | cons d m ih =>
    obtain ⟨k, w⟩ := d
    simp only [Memory.put] at h
    split at h
    · simpa using h
    · split at h
      · simp only [List.mem_cons] at h ⊢; tauto
      · simp only [List.mem_cons] at h ⊢
        rcases h with h | h
        · exact .inr (.inl h)
        · rcases ih h with h | h
          · exact .inl h
          · exact .inr (.inr h)

theorem Memory.mem_of_mem_drop {m : Memory} {a : Nat} {c : Host.Cell} (h : c ∈ Memory.drop m a) : c ∈ m := by
  induction m with
  | nil => exact h
  | cons d m ih =>
    obtain ⟨k, w⟩ := d
    simp only [Memory.drop] at h
    split at h
    · exact List.mem_cons_of_mem _ h
    · simp only [List.mem_cons] at h ⊢
      exact h.imp id ih

theorem Memory.wf_iff {blank : Option Byte} {lo hi : Nat} {m : Memory} :
    Memory.wf blank lo hi m = true ↔
      Memory.rising m = true ∧ ∀ c ∈ m, lo ≤ c.1 ∧ c.1 < hi ∧ some c.2 ≠ blank := by
  simp [Memory.wf, and_assoc]

/-- Listing a byte within the bounds keeps the canonical form. -/
theorem Memory.wf_put {blank : Option Byte} {lo hi : Nat} {m : Memory} (h : Memory.wf blank lo hi m = true) {a : Nat}
    {v : Byte} (hlo : lo ≤ a) (hhi : a < hi) (hv : some v ≠ blank) :
    Memory.wf blank lo hi (Memory.put m a v) = true := by
  rw [Memory.wf_iff] at h ⊢
  refine ⟨Memory.rising_put h.1 a v, fun c hc => ?_⟩
  rcases Memory.mem_put hc with rfl | hc
  · exact ⟨hlo, hhi, hv⟩
  · exact h.2 c hc

/-- Listing nothing at an address keeps the canonical form. -/
theorem Memory.wf_drop {blank : Option Byte} {lo hi : Nat} {m : Memory} (h : Memory.wf blank lo hi m = true) (a : Nat) :
    Memory.wf blank lo hi (Memory.drop m a) = true := by
  rw [Memory.wf_iff] at h ⊢
  exact ⟨Memory.rising_drop h.1 a, fun c hc => h.2 c (Memory.mem_of_mem_drop hc)⟩

/-- A write of an erasable memory within the bounds keeps the canonical form. -/
theorem Memory.wf_write {lo hi : Nat} {m : Memory} (h : Memory.wf (some erasedByte) lo hi m = true) {a : Nat}
    (v : Byte) (hlo : lo ≤ a) (hhi : a < hi) :
    Memory.wf (some erasedByte) lo hi (Memory.write m a v) = true := by
  unfold Memory.write
  split
  · exact Memory.wf_drop h a
  · exact Memory.wf_put h hlo hhi (by simpa using ‹¬ v = erasedByte›)

/-- Two memories in canonical form that read alike everywhere are equal. -/
theorem Memory.ext_of_rising {m n : Memory} (hm : Memory.rising m = true) (hn : Memory.rising n = true)
    (h : ∀ a, Memory.get? m a = Memory.get? n a) : m = n := by
  induction m generalizing n with
  | nil =>
    cases n with
    | nil => rfl
    | cons c n => have := h c.1; simp [Memory.get?] at this
  | cons c m ih =>
    obtain ⟨k, w⟩ := c
    cases n with
    | nil => have := h k; simp [Memory.get?] at this
    | cons d n =>
      obtain ⟨j, u⟩ := d
      rw [Memory.rising_cons] at hm hn
      have hk : k = j := by
        rcases Nat.lt_trichotomy k j with hlt | he | hgt
        · have := h k
          rw [Memory.get?, if_pos rfl, Memory.get?, if_neg (by omega),
            Memory.get?_eq_none_of_risesAbove hn (by omega)] at this
          cases this
        · exact he
        · have := h j
          rw [Memory.get?, if_neg (by omega), Memory.get?_eq_none_of_risesAbove hm (by omega), Memory.get?,
            if_pos rfl] at this
          cases this
      subst hk
      have hw : w = u := by have := h k; simpa [Memory.get?] using this
      subst hw
      rw [ih (Memory.rising_of_risesAbove hm) (Memory.rising_of_risesAbove hn) fun a => ?_]
      by_cases ha : a ≤ k
      · rw [Memory.get?_eq_none_of_risesAbove hm ha, Memory.get?_eq_none_of_risesAbove hn ha]
      · have := h a
        simpa [Memory.get?, show ¬ a = k by omega] using this

end Sys2Proof.Machine
end

