-- ==== Sys2Proof/Laws/State.lean ====
section
/-! SUPPORT. One lemma per field per update of the state, and reading back what the register and flag updates write. -/

namespace Sys2Proof.Machine

@[simp] theorem State.setReg_dev (s : State) (r : Reg) (v : Byte) : (s.setReg r v).dev = s.dev := rfl
@[simp] theorem State.setReg_pc (s : State) (r : Reg) (v : Byte) : (s.setReg r v).pc = s.pc := rfl
@[simp] theorem State.setReg_sreg (s : State) (r : Reg) (v : Byte) : (s.setReg r v).sreg = s.sreg := rfl
@[simp] theorem State.setReg_sp (s : State) (r : Reg) (v : Byte) : (s.setReg r v).sp = s.sp := rfl
@[simp] theorem State.setReg_rampz (s : State) (r : Reg) (v : Byte) : (s.setReg r v).rampz = s.rampz := rfl
@[simp] theorem State.setReg_eind (s : State) (r : Reg) (v : Byte) : (s.setReg r v).eind = s.eind := rfl
@[simp] theorem State.setReg_gpior (s : State) (r : Reg) (v : Byte) : (s.setReg r v).gpior = s.gpior := rfl
@[simp] theorem State.setReg_eear (s : State) (r : Reg) (v : Byte) : (s.setReg r v).eear = s.eear := rfl
@[simp] theorem State.setReg_eedr (s : State) (r : Reg) (v : Byte) : (s.setReg r v).eedr = s.eedr := rfl
@[simp] theorem State.setReg_eerie (s : State) (r : Reg) (v : Byte) : (s.setReg r v).eerie = s.eerie := rfl
@[simp] theorem State.setReg_window (s : State) (r : Reg) (v : Byte) : (s.setReg r v).window = s.window := rfl
@[simp] theorem State.setReg_eeWrite (s : State) (r : Reg) (v : Byte) : (s.setReg r v).eeWrite = s.eeWrite := rfl
@[simp] theorem State.setReg_eeprom (s : State) (r : Reg) (v : Byte) : (s.setReg r v).eeprom = s.eeprom := rfl
@[simp] theorem State.setReg_sram (s : State) (r : Reg) (v : Byte) : (s.setReg r v).sram = s.sram := rfl
@[simp] theorem State.setReg_flash (s : State) (r : Reg) (v : Byte) : (s.setReg r v).flash = s.flash := rfl
@[simp] theorem State.setReg_inhibit (s : State) (r : Reg) (v : Byte) : (s.setReg r v).inhibit = s.inhibit := rfl
@[simp] theorem State.setReg_sleeping (s : State) (r : Reg) (v : Byte) : (s.setReg r v).sleeping = s.sleeping := rfl
@[simp] theorem State.setReg_halted (s : State) (r : Reg) (v : Byte) : (s.setReg r v).halted = s.halted := rfl
@[simp] theorem State.setReg_irq (s : State) (r : Reg) (v : Byte) : (s.setReg r v).irq = s.irq := rfl
@[simp] theorem State.setReg_ioLog (s : State) (r : Reg) (v : Byte) : (s.setReg r v).ioLog = s.ioLog := rfl
@[simp] theorem State.setReg_draws (s : State) (r : Reg) (v : Byte) : (s.setReg r v).draws = s.draws := rfl

@[simp] theorem State.setPair_dev (s : State) (r : Reg) (v : Word) : (s.setPair r v).dev = s.dev := rfl
@[simp] theorem State.setPair_pc (s : State) (r : Reg) (v : Word) : (s.setPair r v).pc = s.pc := rfl
@[simp] theorem State.setPair_sreg (s : State) (r : Reg) (v : Word) : (s.setPair r v).sreg = s.sreg := rfl
@[simp] theorem State.setPair_sp (s : State) (r : Reg) (v : Word) : (s.setPair r v).sp = s.sp := rfl
@[simp] theorem State.setPair_rampz (s : State) (r : Reg) (v : Word) : (s.setPair r v).rampz = s.rampz := rfl
@[simp] theorem State.setPair_eind (s : State) (r : Reg) (v : Word) : (s.setPair r v).eind = s.eind := rfl
@[simp] theorem State.setPair_gpior (s : State) (r : Reg) (v : Word) : (s.setPair r v).gpior = s.gpior := rfl
@[simp] theorem State.setPair_eear (s : State) (r : Reg) (v : Word) : (s.setPair r v).eear = s.eear := rfl
@[simp] theorem State.setPair_eedr (s : State) (r : Reg) (v : Word) : (s.setPair r v).eedr = s.eedr := rfl
@[simp] theorem State.setPair_eerie (s : State) (r : Reg) (v : Word) : (s.setPair r v).eerie = s.eerie := rfl
@[simp] theorem State.setPair_window (s : State) (r : Reg) (v : Word) : (s.setPair r v).window = s.window := rfl
@[simp] theorem State.setPair_eeWrite (s : State) (r : Reg) (v : Word) : (s.setPair r v).eeWrite = s.eeWrite := rfl
@[simp] theorem State.setPair_eeprom (s : State) (r : Reg) (v : Word) : (s.setPair r v).eeprom = s.eeprom := rfl
@[simp] theorem State.setPair_sram (s : State) (r : Reg) (v : Word) : (s.setPair r v).sram = s.sram := rfl
@[simp] theorem State.setPair_flash (s : State) (r : Reg) (v : Word) : (s.setPair r v).flash = s.flash := rfl
@[simp] theorem State.setPair_inhibit (s : State) (r : Reg) (v : Word) : (s.setPair r v).inhibit = s.inhibit := rfl
@[simp] theorem State.setPair_sleeping (s : State) (r : Reg) (v : Word) : (s.setPair r v).sleeping = s.sleeping := rfl
@[simp] theorem State.setPair_halted (s : State) (r : Reg) (v : Word) : (s.setPair r v).halted = s.halted := rfl
@[simp] theorem State.setPair_irq (s : State) (r : Reg) (v : Word) : (s.setPair r v).irq = s.irq := rfl
@[simp] theorem State.setPair_ioLog (s : State) (r : Reg) (v : Word) : (s.setPair r v).ioLog = s.ioLog := rfl
@[simp] theorem State.setPair_draws (s : State) (r : Reg) (v : Word) : (s.setPair r v).draws = s.draws := rfl

@[simp] theorem State.setPtr_dev (s : State) (p : Ptr) (v : Word) : (s.setPtr p v).dev = s.dev := rfl
@[simp] theorem State.setPtr_pc (s : State) (p : Ptr) (v : Word) : (s.setPtr p v).pc = s.pc := rfl
@[simp] theorem State.setPtr_sreg (s : State) (p : Ptr) (v : Word) : (s.setPtr p v).sreg = s.sreg := rfl
@[simp] theorem State.setPtr_sp (s : State) (p : Ptr) (v : Word) : (s.setPtr p v).sp = s.sp := rfl
@[simp] theorem State.setPtr_rampz (s : State) (p : Ptr) (v : Word) : (s.setPtr p v).rampz = s.rampz := rfl
@[simp] theorem State.setPtr_eind (s : State) (p : Ptr) (v : Word) : (s.setPtr p v).eind = s.eind := rfl
@[simp] theorem State.setPtr_gpior (s : State) (p : Ptr) (v : Word) : (s.setPtr p v).gpior = s.gpior := rfl
@[simp] theorem State.setPtr_eear (s : State) (p : Ptr) (v : Word) : (s.setPtr p v).eear = s.eear := rfl
@[simp] theorem State.setPtr_eedr (s : State) (p : Ptr) (v : Word) : (s.setPtr p v).eedr = s.eedr := rfl
@[simp] theorem State.setPtr_eerie (s : State) (p : Ptr) (v : Word) : (s.setPtr p v).eerie = s.eerie := rfl
@[simp] theorem State.setPtr_window (s : State) (p : Ptr) (v : Word) : (s.setPtr p v).window = s.window := rfl
@[simp] theorem State.setPtr_eeWrite (s : State) (p : Ptr) (v : Word) : (s.setPtr p v).eeWrite = s.eeWrite := rfl
@[simp] theorem State.setPtr_eeprom (s : State) (p : Ptr) (v : Word) : (s.setPtr p v).eeprom = s.eeprom := rfl
@[simp] theorem State.setPtr_sram (s : State) (p : Ptr) (v : Word) : (s.setPtr p v).sram = s.sram := rfl
@[simp] theorem State.setPtr_flash (s : State) (p : Ptr) (v : Word) : (s.setPtr p v).flash = s.flash := rfl
@[simp] theorem State.setPtr_inhibit (s : State) (p : Ptr) (v : Word) : (s.setPtr p v).inhibit = s.inhibit := rfl
@[simp] theorem State.setPtr_sleeping (s : State) (p : Ptr) (v : Word) : (s.setPtr p v).sleeping = s.sleeping := rfl
@[simp] theorem State.setPtr_halted (s : State) (p : Ptr) (v : Word) : (s.setPtr p v).halted = s.halted := rfl
@[simp] theorem State.setPtr_irq (s : State) (p : Ptr) (v : Word) : (s.setPtr p v).irq = s.irq := rfl
@[simp] theorem State.setPtr_ioLog (s : State) (p : Ptr) (v : Word) : (s.setPtr p v).ioLog = s.ioLog := rfl
@[simp] theorem State.setPtr_draws (s : State) (p : Ptr) (v : Word) : (s.setPtr p v).draws = s.draws := rfl

@[simp] theorem State.setFlags_dev (s : State) (f : Flags) : (s.setFlags f).dev = s.dev := rfl
@[simp] theorem State.setFlags_regs (s : State) (f : Flags) : (s.setFlags f).regs = s.regs := rfl
@[simp] theorem State.setFlags_pc (s : State) (f : Flags) : (s.setFlags f).pc = s.pc := rfl
@[simp] theorem State.setFlags_sreg (s : State) (f : Flags) : (s.setFlags f).sreg = sregOf f := rfl
@[simp] theorem State.setFlags_sp (s : State) (f : Flags) : (s.setFlags f).sp = s.sp := rfl
@[simp] theorem State.setFlags_rampz (s : State) (f : Flags) : (s.setFlags f).rampz = s.rampz := rfl
@[simp] theorem State.setFlags_eind (s : State) (f : Flags) : (s.setFlags f).eind = s.eind := rfl
@[simp] theorem State.setFlags_gpior (s : State) (f : Flags) : (s.setFlags f).gpior = s.gpior := rfl
@[simp] theorem State.setFlags_eear (s : State) (f : Flags) : (s.setFlags f).eear = s.eear := rfl
@[simp] theorem State.setFlags_eedr (s : State) (f : Flags) : (s.setFlags f).eedr = s.eedr := rfl
@[simp] theorem State.setFlags_eerie (s : State) (f : Flags) : (s.setFlags f).eerie = s.eerie := rfl
@[simp] theorem State.setFlags_window (s : State) (f : Flags) : (s.setFlags f).window = s.window := rfl
@[simp] theorem State.setFlags_eeWrite (s : State) (f : Flags) : (s.setFlags f).eeWrite = s.eeWrite := rfl
@[simp] theorem State.setFlags_eeprom (s : State) (f : Flags) : (s.setFlags f).eeprom = s.eeprom := rfl
@[simp] theorem State.setFlags_sram (s : State) (f : Flags) : (s.setFlags f).sram = s.sram := rfl
@[simp] theorem State.setFlags_flash (s : State) (f : Flags) : (s.setFlags f).flash = s.flash := rfl
@[simp] theorem State.setFlags_inhibit (s : State) (f : Flags) : (s.setFlags f).inhibit = s.inhibit := rfl
@[simp] theorem State.setFlags_sleeping (s : State) (f : Flags) : (s.setFlags f).sleeping = s.sleeping := rfl
@[simp] theorem State.setFlags_halted (s : State) (f : Flags) : (s.setFlags f).halted = s.halted := rfl
@[simp] theorem State.setFlags_irq (s : State) (f : Flags) : (s.setFlags f).irq = s.irq := rfl
@[simp] theorem State.setFlags_ioLog (s : State) (f : Flags) : (s.setFlags f).ioLog = s.ioLog := rfl
@[simp] theorem State.setFlags_draws (s : State) (f : Flags) : (s.setFlags f).draws = s.draws := rfl

@[simp] theorem State.setSregBit_dev (s : State) (b : BitVec 3) (v : Bool) : (s.setSregBit b v).dev = s.dev := rfl
@[simp] theorem State.setSregBit_regs (s : State) (b : BitVec 3) (v : Bool) : (s.setSregBit b v).regs = s.regs := rfl
@[simp] theorem State.setSregBit_pc (s : State) (b : BitVec 3) (v : Bool) : (s.setSregBit b v).pc = s.pc := rfl
@[simp] theorem State.setSregBit_sreg (s : State) (b : BitVec 3) (v : Bool) : (s.setSregBit b v).sreg = withBit s.sreg b v := rfl
@[simp] theorem State.setSregBit_sp (s : State) (b : BitVec 3) (v : Bool) : (s.setSregBit b v).sp = s.sp := rfl
@[simp] theorem State.setSregBit_rampz (s : State) (b : BitVec 3) (v : Bool) : (s.setSregBit b v).rampz = s.rampz := rfl
@[simp] theorem State.setSregBit_eind (s : State) (b : BitVec 3) (v : Bool) : (s.setSregBit b v).eind = s.eind := rfl
@[simp] theorem State.setSregBit_gpior (s : State) (b : BitVec 3) (v : Bool) : (s.setSregBit b v).gpior = s.gpior := rfl
@[simp] theorem State.setSregBit_eear (s : State) (b : BitVec 3) (v : Bool) : (s.setSregBit b v).eear = s.eear := rfl
@[simp] theorem State.setSregBit_eedr (s : State) (b : BitVec 3) (v : Bool) : (s.setSregBit b v).eedr = s.eedr := rfl
@[simp] theorem State.setSregBit_eerie (s : State) (b : BitVec 3) (v : Bool) : (s.setSregBit b v).eerie = s.eerie := rfl
@[simp] theorem State.setSregBit_window (s : State) (b : BitVec 3) (v : Bool) : (s.setSregBit b v).window = s.window := rfl
@[simp] theorem State.setSregBit_eeWrite (s : State) (b : BitVec 3) (v : Bool) : (s.setSregBit b v).eeWrite = s.eeWrite := rfl
@[simp] theorem State.setSregBit_eeprom (s : State) (b : BitVec 3) (v : Bool) : (s.setSregBit b v).eeprom = s.eeprom := rfl
@[simp] theorem State.setSregBit_sram (s : State) (b : BitVec 3) (v : Bool) : (s.setSregBit b v).sram = s.sram := rfl
@[simp] theorem State.setSregBit_flash (s : State) (b : BitVec 3) (v : Bool) : (s.setSregBit b v).flash = s.flash := rfl
@[simp] theorem State.setSregBit_inhibit (s : State) (b : BitVec 3) (v : Bool) : (s.setSregBit b v).inhibit = s.inhibit := rfl
@[simp] theorem State.setSregBit_sleeping (s : State) (b : BitVec 3) (v : Bool) : (s.setSregBit b v).sleeping = s.sleeping := rfl
@[simp] theorem State.setSregBit_halted (s : State) (b : BitVec 3) (v : Bool) : (s.setSregBit b v).halted = s.halted := rfl
@[simp] theorem State.setSregBit_irq (s : State) (b : BitVec 3) (v : Bool) : (s.setSregBit b v).irq = s.irq := rfl
@[simp] theorem State.setSregBit_ioLog (s : State) (b : BitVec 3) (v : Bool) : (s.setSregBit b v).ioLog = s.ioLog := rfl
@[simp] theorem State.setSregBit_draws (s : State) (b : BitVec 3) (v : Bool) : (s.setSregBit b v).draws = s.draws := rfl

@[simp] theorem State.setPc_dev (s : State) (a : PcAddr) : (s.setPc a).dev = s.dev := rfl
@[simp] theorem State.setPc_regs (s : State) (a : PcAddr) : (s.setPc a).regs = s.regs := rfl
@[simp] theorem State.setPc_pc (s : State) (a : PcAddr) : (s.setPc a).pc = s.dev.wrap a := rfl
@[simp] theorem State.setPc_sreg (s : State) (a : PcAddr) : (s.setPc a).sreg = s.sreg := rfl
@[simp] theorem State.setPc_sp (s : State) (a : PcAddr) : (s.setPc a).sp = s.sp := rfl
@[simp] theorem State.setPc_rampz (s : State) (a : PcAddr) : (s.setPc a).rampz = s.rampz := rfl
@[simp] theorem State.setPc_eind (s : State) (a : PcAddr) : (s.setPc a).eind = s.eind := rfl
@[simp] theorem State.setPc_gpior (s : State) (a : PcAddr) : (s.setPc a).gpior = s.gpior := rfl
@[simp] theorem State.setPc_eear (s : State) (a : PcAddr) : (s.setPc a).eear = s.eear := rfl
@[simp] theorem State.setPc_eedr (s : State) (a : PcAddr) : (s.setPc a).eedr = s.eedr := rfl
@[simp] theorem State.setPc_eerie (s : State) (a : PcAddr) : (s.setPc a).eerie = s.eerie := rfl
@[simp] theorem State.setPc_window (s : State) (a : PcAddr) : (s.setPc a).window = s.window := rfl
@[simp] theorem State.setPc_eeWrite (s : State) (a : PcAddr) : (s.setPc a).eeWrite = s.eeWrite := rfl
@[simp] theorem State.setPc_eeprom (s : State) (a : PcAddr) : (s.setPc a).eeprom = s.eeprom := rfl
@[simp] theorem State.setPc_sram (s : State) (a : PcAddr) : (s.setPc a).sram = s.sram := rfl
@[simp] theorem State.setPc_flash (s : State) (a : PcAddr) : (s.setPc a).flash = s.flash := rfl
@[simp] theorem State.setPc_inhibit (s : State) (a : PcAddr) : (s.setPc a).inhibit = s.inhibit := rfl
@[simp] theorem State.setPc_sleeping (s : State) (a : PcAddr) : (s.setPc a).sleeping = s.sleeping := rfl
@[simp] theorem State.setPc_halted (s : State) (a : PcAddr) : (s.setPc a).halted = s.halted := rfl
@[simp] theorem State.setPc_irq (s : State) (a : PcAddr) : (s.setPc a).irq = s.irq := rfl
@[simp] theorem State.setPc_ioLog (s : State) (a : PcAddr) : (s.setPc a).ioLog = s.ioLog := rfl
@[simp] theorem State.setPc_draws (s : State) (a : PcAddr) : (s.setPc a).draws = s.draws := rfl

@[simp] theorem State.advance_dev (s : State) (n : PcAddr) : (s.advance n).dev = s.dev := rfl
@[simp] theorem State.advance_regs (s : State) (n : PcAddr) : (s.advance n).regs = s.regs := rfl
@[simp] theorem State.advance_pc (s : State) (n : PcAddr) : (s.advance n).pc = s.dev.wrap (s.pc + n) := rfl
@[simp] theorem State.advance_sreg (s : State) (n : PcAddr) : (s.advance n).sreg = s.sreg := rfl
@[simp] theorem State.advance_sp (s : State) (n : PcAddr) : (s.advance n).sp = s.sp := rfl
@[simp] theorem State.advance_rampz (s : State) (n : PcAddr) : (s.advance n).rampz = s.rampz := rfl
@[simp] theorem State.advance_eind (s : State) (n : PcAddr) : (s.advance n).eind = s.eind := rfl
@[simp] theorem State.advance_gpior (s : State) (n : PcAddr) : (s.advance n).gpior = s.gpior := rfl
@[simp] theorem State.advance_eear (s : State) (n : PcAddr) : (s.advance n).eear = s.eear := rfl
@[simp] theorem State.advance_eedr (s : State) (n : PcAddr) : (s.advance n).eedr = s.eedr := rfl
@[simp] theorem State.advance_eerie (s : State) (n : PcAddr) : (s.advance n).eerie = s.eerie := rfl
@[simp] theorem State.advance_window (s : State) (n : PcAddr) : (s.advance n).window = s.window := rfl
@[simp] theorem State.advance_eeWrite (s : State) (n : PcAddr) : (s.advance n).eeWrite = s.eeWrite := rfl
@[simp] theorem State.advance_eeprom (s : State) (n : PcAddr) : (s.advance n).eeprom = s.eeprom := rfl
@[simp] theorem State.advance_sram (s : State) (n : PcAddr) : (s.advance n).sram = s.sram := rfl
@[simp] theorem State.advance_flash (s : State) (n : PcAddr) : (s.advance n).flash = s.flash := rfl
@[simp] theorem State.advance_inhibit (s : State) (n : PcAddr) : (s.advance n).inhibit = s.inhibit := rfl
@[simp] theorem State.advance_sleeping (s : State) (n : PcAddr) : (s.advance n).sleeping = s.sleeping := rfl
@[simp] theorem State.advance_halted (s : State) (n : PcAddr) : (s.advance n).halted = s.halted := rfl
@[simp] theorem State.advance_irq (s : State) (n : PcAddr) : (s.advance n).irq = s.irq := rfl
@[simp] theorem State.advance_ioLog (s : State) (n : PcAddr) : (s.advance n).ioLog = s.ioLog := rfl
@[simp] theorem State.advance_draws (s : State) (n : PcAddr) : (s.advance n).draws = s.draws := rfl

@[simp] theorem State.beginInstr_dev (s : State) : (s.beginInstr).dev = s.dev := rfl
@[simp] theorem State.beginInstr_regs (s : State) : (s.beginInstr).regs = s.regs := rfl
@[simp] theorem State.beginInstr_pc (s : State) : (s.beginInstr).pc = s.pc := rfl
@[simp] theorem State.beginInstr_sreg (s : State) : (s.beginInstr).sreg = s.sreg := rfl
@[simp] theorem State.beginInstr_sp (s : State) : (s.beginInstr).sp = s.sp := rfl
@[simp] theorem State.beginInstr_rampz (s : State) : (s.beginInstr).rampz = s.rampz := rfl
@[simp] theorem State.beginInstr_eind (s : State) : (s.beginInstr).eind = s.eind := rfl
@[simp] theorem State.beginInstr_gpior (s : State) : (s.beginInstr).gpior = s.gpior := rfl
@[simp] theorem State.beginInstr_eear (s : State) : (s.beginInstr).eear = s.eear := rfl
@[simp] theorem State.beginInstr_eedr (s : State) : (s.beginInstr).eedr = s.eedr := rfl
@[simp] theorem State.beginInstr_eerie (s : State) : (s.beginInstr).eerie = s.eerie := rfl
@[simp] theorem State.beginInstr_window (s : State) : (s.beginInstr).window = s.window.aged := rfl
@[simp] theorem State.beginInstr_eeWrite (s : State) : (s.beginInstr).eeWrite = s.eeWrite := rfl
@[simp] theorem State.beginInstr_eeprom (s : State) : (s.beginInstr).eeprom = s.eeprom := rfl
@[simp] theorem State.beginInstr_sram (s : State) : (s.beginInstr).sram = s.sram := rfl
@[simp] theorem State.beginInstr_flash (s : State) : (s.beginInstr).flash = s.flash := rfl
@[simp] theorem State.beginInstr_inhibit (s : State) : (s.beginInstr).inhibit = false := rfl
@[simp] theorem State.beginInstr_sleeping (s : State) : (s.beginInstr).sleeping = s.sleeping := rfl
@[simp] theorem State.beginInstr_halted (s : State) : (s.beginInstr).halted = s.halted := rfl
@[simp] theorem State.beginInstr_irq (s : State) : (s.beginInstr).irq = s.irq := rfl
@[simp] theorem State.beginInstr_ioLog (s : State) : (s.beginInstr).ioLog = s.ioLog := rfl
@[simp] theorem State.beginInstr_draws (s : State) : (s.beginInstr).draws = s.draws := rfl

@[simp] theorem State.clearIrq_dev (s : State) (n : Nat) : (s.clearIrq n).dev = s.dev := by
  unfold State.clearIrq; split <;> rfl
@[simp] theorem State.clearIrq_regs (s : State) (n : Nat) : (s.clearIrq n).regs = s.regs := by
  unfold State.clearIrq; split <;> rfl
@[simp] theorem State.clearIrq_pc (s : State) (n : Nat) : (s.clearIrq n).pc = s.pc := by
  unfold State.clearIrq; split <;> rfl
@[simp] theorem State.clearIrq_sreg (s : State) (n : Nat) : (s.clearIrq n).sreg = s.sreg := by
  unfold State.clearIrq; split <;> rfl
@[simp] theorem State.clearIrq_sp (s : State) (n : Nat) : (s.clearIrq n).sp = s.sp := by
  unfold State.clearIrq; split <;> rfl
@[simp] theorem State.clearIrq_rampz (s : State) (n : Nat) : (s.clearIrq n).rampz = s.rampz := by
  unfold State.clearIrq; split <;> rfl
@[simp] theorem State.clearIrq_eind (s : State) (n : Nat) : (s.clearIrq n).eind = s.eind := by
  unfold State.clearIrq; split <;> rfl
@[simp] theorem State.clearIrq_gpior (s : State) (n : Nat) : (s.clearIrq n).gpior = s.gpior := by
  unfold State.clearIrq; split <;> rfl
@[simp] theorem State.clearIrq_eear (s : State) (n : Nat) : (s.clearIrq n).eear = s.eear := by
  unfold State.clearIrq; split <;> rfl
@[simp] theorem State.clearIrq_eedr (s : State) (n : Nat) : (s.clearIrq n).eedr = s.eedr := by
  unfold State.clearIrq; split <;> rfl
@[simp] theorem State.clearIrq_eerie (s : State) (n : Nat) : (s.clearIrq n).eerie = s.eerie := by
  unfold State.clearIrq; split <;> rfl
@[simp] theorem State.clearIrq_window (s : State) (n : Nat) : (s.clearIrq n).window = s.window := by
  unfold State.clearIrq; split <;> rfl
@[simp] theorem State.clearIrq_eeWrite (s : State) (n : Nat) : (s.clearIrq n).eeWrite = s.eeWrite := by
  unfold State.clearIrq; split <;> rfl
@[simp] theorem State.clearIrq_eeprom (s : State) (n : Nat) : (s.clearIrq n).eeprom = s.eeprom := by
  unfold State.clearIrq; split <;> rfl
@[simp] theorem State.clearIrq_sram (s : State) (n : Nat) : (s.clearIrq n).sram = s.sram := by
  unfold State.clearIrq; split <;> rfl
@[simp] theorem State.clearIrq_flash (s : State) (n : Nat) : (s.clearIrq n).flash = s.flash := by
  unfold State.clearIrq; split <;> rfl
@[simp] theorem State.clearIrq_inhibit (s : State) (n : Nat) : (s.clearIrq n).inhibit = s.inhibit := by
  unfold State.clearIrq; split <;> rfl
@[simp] theorem State.clearIrq_sleeping (s : State) (n : Nat) : (s.clearIrq n).sleeping = s.sleeping := by
  unfold State.clearIrq; split <;> rfl
@[simp] theorem State.clearIrq_halted (s : State) (n : Nat) : (s.clearIrq n).halted = s.halted := by
  unfold State.clearIrq; split <;> rfl
@[simp] theorem State.clearIrq_ioLog (s : State) (n : Nat) : (s.clearIrq n).ioLog = s.ioLog := by
  unfold State.clearIrq; split <;> rfl
@[simp] theorem State.clearIrq_draws (s : State) (n : Nat) : (s.clearIrq n).draws = s.draws := by
  unfold State.clearIrq; split <;> rfl
@[simp] theorem State.clearIrq_irq (s : State) (n : Nat) :
    (s.clearIrq n).irq = if n = 18 then s.irq else s.irq.filter (fun m => m ≠ n) := by
  unfold State.clearIrq eeRdySource; split <;> rfl

theorem State.reg_setReg (s : State) (d r : Reg) (v : Byte) :
    (s.setReg d v).reg r = if r = d then v else s.reg r := by
  simp only [State.reg, State.setReg, Vector.getElem_set]
  by_cases h : r = d
  · subst h; simp
  · have : ¬ d.toNat = r.toNat := fun e => h (BitVec.eq_of_toNat_eq e.symm)
    simp [h, this]

@[simp] theorem State.reg_setReg_self (s : State) (d : Reg) (v : Byte) : (s.setReg d v).reg d = v := by
  simp [State.reg_setReg]

theorem State.reg_setReg_of_ne (s : State) {d r : Reg} (v : Byte) (h : r ≠ d) : (s.setReg d v).reg r = s.reg r := by
  simp [State.reg_setReg, h]

theorem State.reg_congr {s t : State} (h : t.regs = s.regs) (r : Reg) : t.reg r = s.reg r := by
  simp [State.reg, h]

@[simp] theorem State.reg_setFlags (s : State) (f : Flags) (r : Reg) : (s.setFlags f).reg r = s.reg r := rfl
@[simp] theorem State.reg_setSregBit (s : State) (b : BitVec 3) (v : Bool) (r : Reg) :
    (s.setSregBit b v).reg r = s.reg r := rfl
@[simp] theorem State.reg_setPc (s : State) (a : PcAddr) (r : Reg) : (s.setPc a).reg r = s.reg r := rfl
@[simp] theorem State.reg_advance (s : State) (n : PcAddr) (r : Reg) : (s.advance n).reg r = s.reg r := rfl

theorem State.reg_setPair (s : State) (d r : Reg) (v : Word) :
    (s.setPair d v).reg r = if r = d + 1 then highByte v else if r = d then lowByte v else s.reg r := by
  simp [State.setPair, State.reg_setReg]

theorem wordOf_bytes (v : Word) : wordOf (highByte v) (lowByte v) = v := by
  apply BitVec.eq_of_getLsbD_eq
  intro i hi
  simp only [wordOf, highByte, lowByte, BitVec.getLsbD_append, BitVec.getLsbD_extractLsb']
  by_cases h : i < 8
  · simp [h]
  · have h8 : i - 8 < 8 := by omega
    have e : 8 + (i - 8) = i := by omega
    simp [h, h8, e]

theorem Reg.succ_ne (d : Reg) : d + 1 ≠ d := by revert d; decide

@[simp] theorem State.pair_setPair (s : State) (d : Reg) (v : Word) : (s.setPair d v).pair d = v := by
  simp [State.pair, State.reg_setPair, wordOf_bytes]

@[simp] theorem State.ptr_setPtr (s : State) (p : Ptr) (v : Word) : (s.setPtr p v).ptr p = v :=
  State.pair_setPair s p.low v

theorem withBit_getLsbD (v : Byte) (b : BitVec 3) (x : Bool) (i : Nat) (hi : i < 8) :
    (withBit v b x).getLsbD i = if i = b.toNat then x else v.getLsbD i := by
  revert v b x i hi; decide +kernel

@[simp] theorem flagsOf_sregOf (f : Flags) : flagsOf (sregOf f) = f := by
  obtain ⟨i, t, h, s, v, n, z, c⟩ := f
  revert i t h s v n z c; decide +kernel

@[simp] theorem sregOf_flagsOf (b : Byte) : sregOf (flagsOf b) = b := by revert b; decide +kernel

@[simp] theorem State.flags_setFlags (s : State) (f : Flags) : (s.setFlags f).flags = f := by
  simp [State.flags]

@[simp] theorem State.flags_setReg (s : State) (r : Reg) (v : Byte) : (s.setReg r v).flags = s.flags := rfl
@[simp] theorem State.flags_setPair (s : State) (r : Reg) (v : Word) : (s.setPair r v).flags = s.flags := rfl
@[simp] theorem State.flags_setPc (s : State) (a : PcAddr) : (s.setPc a).flags = s.flags := rfl
@[simp] theorem State.flags_advance (s : State) (n : PcAddr) : (s.advance n).flags = s.flags := rfl

theorem Device.wrap_lt (c : Device) (a : PcAddr) : (c.wrap a).toNat < 2 ^ c.pcBits := by
  unfold Device.wrap Device.pcBits
  cases c.pcClass
  · simp only [BitVec.toNat_and]; exact Nat.and_lt_two_pow _ (by decide)
  · exact a.isLt

theorem Device.wrap_toNat (c : Device) (a : PcAddr) : (c.wrap a).toNat = a.toNat % 2 ^ c.pcBits := by
  unfold Device.wrap Device.pcBits
  cases c.pcClass
  · simp only [BitVec.toNat_and]; exact Nat.and_two_pow_sub_one_eq_mod _ 16
  · exact (Nat.mod_eq_of_lt a.isLt).symm

theorem Device.wrap_of_lt (c : Device) (a : PcAddr) (h : a.toNat < 2 ^ c.pcBits) : c.wrap a = a :=
  BitVec.eq_of_toNat_eq (by rw [Device.wrap_toNat, Nat.mod_eq_of_lt h])

end Sys2Proof.Machine
end

