-- ==== Sys2Proof/Laws/Ops.lean ====
section
/-! SUPPORT. For each shared operation of Machine/Ops.lean and Machine/Operands.lean, what it can do: its cases, and
what it leaves unchanged. -/

namespace Sys2Proof.Machine

/-! Sequencing of operations. -/

@[simp] theorem res_bind_ok {α β : Type} (a : α) (f : α → Res β) : ((.ok a : Res α) >>= f) = f a := rfl

@[simp] theorem res_bind_error {α β : Type} (e : Stop) (f : α → Res β) : ((.error e : Res α) >>= f) = .error e := rfl

theorem res_bind_eq_ok {α β : Type} {x : Res α} {f : α → Res β} {b : β} :
    (x >>= f) = .ok b ↔ ∃ a, x = .ok a ∧ f a = .ok b := by
  cases x <;> simp

theorem refuse_ne_ok {α : Type} {r : Refusal} {a : α} : (refuse r : Res α) ≠ .ok a := by
  simp [refuse]

theorem fault_ne_ok {α : Type} {f : Fault} {a : α} : (fault f : Res α) ≠ .ok a := by
  simp [fault]

theorem finish_eq_next {x : Res State} {t : State} : finish x = .next t ↔ x = .ok t := by
  cases x with
  | ok s => simp [finish]
  | error e => cases e <;> simp [finish]

/-! What every operation of an instruction keeps. -/

/-- What no operation of an instruction changes. -/
def Fixed (s t : State) : Prop := t.dev = s.dev ∧ t.flash = s.flash ∧ t.eeprom = s.eeprom ∧ t.irq = s.irq

/-- The part of the invariant that operations over data may touch. -/
def DataInv (s : State) : Prop :=
  Memory.wf none s.dev.ramStart (s.dev.ramEnd + 1) s.sram = true ∧
  s.eeWrite.all (fun w => decide (w.addr.toNat < s.dev.eepromBytes)) = true ∧
  s.rampz &&& s.dev.rampzMask = s.rampz ∧
  s.eind &&& s.dev.eindMask = s.eind

/-- `t` follows from `s` by operations that change nothing of `Fixed` and keep `DataInv`. -/
def Kept (s t : State) : Prop := Fixed s t ∧ (DataInv s → DataInv t)

theorem Kept.refl (s : State) : Kept s s := ⟨⟨rfl, rfl, rfl, rfl⟩, id⟩

theorem Kept.trans {s t u : State} (h : Kept s t) (k : Kept t u) : Kept s u := by
  obtain ⟨⟨a, b, c, d⟩, e⟩ := h
  obtain ⟨⟨a', b', c', d'⟩, e'⟩ := k
  exact ⟨⟨a'.trans a, b'.trans b, c'.trans c, d'.trans d⟩, e' ∘ e⟩

/-- An update of fields that neither `Fixed` nor `DataInv` reads. -/
theorem Kept.of_eq {s t : State} (hd : t.dev = s.dev) (hf : t.flash = s.flash) (he : t.eeprom = s.eeprom)
    (hi : t.irq = s.irq) (hs : t.sram = s.sram) (hw : t.eeWrite = s.eeWrite) (hr : t.rampz = s.rampz)
    (hn : t.eind = s.eind) : Kept s t := by
  refine ⟨⟨hd, hf, he, hi⟩, ?_⟩
  unfold DataInv
  rw [hd, hs, hw, hr, hn]
  exact id

theorem State.setReg_kept (s : State) (r : Reg) (v : Byte) : Kept s (s.setReg r v) :=
  .of_eq rfl rfl rfl rfl rfl rfl rfl rfl
theorem State.setPair_kept (s : State) (r : Reg) (v : Word) : Kept s (s.setPair r v) :=
  .of_eq rfl rfl rfl rfl rfl rfl rfl rfl
theorem State.setPtr_kept (s : State) (p : Ptr) (v : Word) : Kept s (s.setPtr p v) :=
  .of_eq rfl rfl rfl rfl rfl rfl rfl rfl
theorem State.setFlags_kept (s : State) (f : Flags) : Kept s (s.setFlags f) := .of_eq rfl rfl rfl rfl rfl rfl rfl rfl
theorem State.setSregBit_kept (s : State) (b : BitVec 3) (v : Bool) : Kept s (s.setSregBit b v) :=
  .of_eq rfl rfl rfl rfl rfl rfl rfl rfl
theorem State.setPc_kept (s : State) (a : PcAddr) : Kept s (s.setPc a) := .of_eq rfl rfl rfl rfl rfl rfl rfl rfl
theorem State.advance_kept (s : State) (n : PcAddr) : Kept s (s.advance n) := .of_eq rfl rfl rfl rfl rfl rfl rfl rfl

theorem State.setRampzZ_kept (s : State) (b : ProgByteAddr) : Kept s (s.setRampzZ b) := by
  refine ⟨⟨rfl, rfl, rfl, rfl⟩, fun h => ⟨h.1, h.2.1, ?_, h.2.2.2⟩⟩
  show (_ &&& _) &&& _ = _ &&& _
  rw [BitVec.and_assoc]
  exact congrArg _ (BitVec.and_self ..)

/-! The I/O space. -/

/-- A read of the I/O space changes only the counter of draws. -/
theorem State.ioRead_state (s : State) (A : IoAddr) :
    (s.ioRead A).2 = { s with draws := (s.ioRead A).2.draws } := by
  unfold State.ioRead State.readEemwe
  split <;> try rfl
  split
  · rfl
  · split <;> rfl

theorem State.ioRead_kept (s : State) (A : IoAddr) : Kept s (s.ioRead A).2 := by
  rw [State.ioRead_state]; exact .of_eq rfl rfl rfl rfl rfl rfl rfl rfl

/-- `t` differs from `s` only in what a write of the I/O space may change. -/
def IoFrame (s t : State) : Prop :=
  t = { s with sreg := t.sreg, sp := t.sp, rampz := t.rampz, eind := t.eind, gpior := t.gpior, eear := t.eear,
               eedr := t.eedr, eerie := t.eerie, window := t.window, eeWrite := t.eeWrite, ioLog := t.ioLog,
               draws := t.draws }

/-- The start of an EEPROM write (60_exceptions.md R415). -/
theorem State.startWrite_eq_ok {s t : State} (h : s.startWrite = .ok t) :
    s.eear.toNat < s.dev.eepromBytes ∧
    t = { s with
      eeWrite := some { addr := s.eear, data := s.eedr, wait := Config.programmerWait s.draws }
      window := .closed
      draws := s.draws + 1 } := by
  unfold State.startWrite at h
  split at h
  · exact ⟨‹_›, by simpa using h.symm⟩
  · exact absurd h refuse_ne_ok

/-- Setting EEMWE opens the closed window (R413). -/
theorem State.setEemwe_eq_ok {s t : State} (h : s.setEemwe = .ok t) :
    s.window = .closed ∧ t = { s with window := .opened 0 } := by
  unfold State.setEemwe at h
  split at h
  · exact ⟨‹_›, by simpa using h.symm⟩
  · exact absurd h refuse_ne_ok

/-- Setting EEWE starts a write in `open(1)` and otherwise does nothing (R413). -/
theorem State.setEewe_eq_ok {s t : State} {v2 : Bool} (h : s.setEewe v2 = .ok t) :
    t = s ∨ (s.busy = false ∧ s.window = .opened 1 ∧ s.startWrite = .ok t) := by
  unfold State.setEewe at h
  split at h
  · exact .inl (by simpa using h.symm)
  · split at h
    · exact .inr ⟨by simpa using ‹¬ s.busy = true›, ‹_›, h⟩
    · split at h
      · exact absurd h refuse_ne_ok
      · split at h
        · exact absurd h refuse_ne_ok
        · exact .inl (by simpa using h.symm)

/-- Setting EERE reads the addressed cell into EEDR (R413, R414). -/
theorem State.setEere_eq_ok {s t : State} (h : s.setEere = .ok t) :
    s.busy = false ∧ s.eear.toNat < s.dev.eepromBytes ∧ t = { s with eedr := Memory.read s.eeprom s.eear.toNat } := by
  unfold State.setEere at h
  split at h
  · exact absurd h refuse_ne_ok
  · split at h
    · exact ⟨by simpa using ‹¬ s.busy = true›, ‹_›, by simpa using h.symm⟩
    · exact absurd h refuse_ne_ok

/-- `t` differs from `s` only in the EEPROM registers; if a write was started it lies in the EEPROM. -/
def EepromFrame (s t : State) : Prop :=
  t = { s with eedr := t.eedr, eerie := t.eerie, window := t.window, eeWrite := t.eeWrite, draws := t.draws } ∧
  (t.eeWrite = s.eeWrite ∨ ∃ w, t.eeWrite = some w ∧ w.addr.toNat < s.dev.eepromBytes)

theorem EepromFrame.refl (s : State) : EepromFrame s s := ⟨rfl, .inl rfl⟩

theorem EepromFrame.trans {s t u : State} (h : EepromFrame s t) (k : EepromFrame t u) : EepromFrame s u := by
  obtain ⟨he, hw⟩ := h
  obtain ⟨ke, kw⟩ := k
  refine ⟨by rw [ke, he], ?_⟩
  rcases kw with kw | ⟨w, kw, kb⟩
  · rw [kw]; exact hw
  · exact .inr ⟨w, kw, by rw [he] at kb; exact kb⟩

theorem State.setEemwe_frame {s t : State} (h : s.setEemwe = .ok t) : EepromFrame s t := by
  obtain ⟨-, rfl⟩ := State.setEemwe_eq_ok h; exact ⟨rfl, .inl rfl⟩

theorem State.setEewe_frame {s t : State} {v2 : Bool} (h : s.setEewe v2 = .ok t) : EepromFrame s t := by
  rcases State.setEewe_eq_ok h with rfl | ⟨-, -, h⟩
  · exact .refl _
  · obtain ⟨hb, rfl⟩ := State.startWrite_eq_ok h
    exact ⟨rfl, .inr ⟨_, rfl, hb⟩⟩

theorem State.setEere_frame {s t : State} (h : s.setEere = .ok t) : EepromFrame s t := by
  obtain ⟨-, -, rfl⟩ := State.setEere_eq_ok h; exact ⟨rfl, .inl rfl⟩

theorem State.closeWindow_frame (s : State) : EepromFrame s { s with window := .closed } := ⟨rfl, .inl rfl⟩

theorem State.setEerie_frame (s : State) (v : Bool) : EepromFrame s { s with eerie := v } := ⟨rfl, .inl rfl⟩

/-- What a write of EECR changes (R413). -/
theorem State.writeEecr_frame {s t : State} {v : Byte} (h : s.writeEecr v = .ok t) : EepromFrame s t := by
  unfold State.writeEecr at h
  split at h
  · exact absurd h refuse_ne_ok
  · obtain ⟨u, hu, ht⟩ := res_bind_eq_ok.1 h
    have hsu : EepromFrame { s with eerie := bitOf v 3 } u := by
      unfold State.writeEnables at hu
      split at hu
      · exact State.setEewe_frame hu
      · split at hu
        · exact State.setEemwe_frame hu
        · cases hu; exact State.closeWindow_frame _
    have hut : EepromFrame u t := by
      split at ht
      · exact State.setEere_frame ht
      · cases ht; exact .refl _
    exact ((State.setEerie_frame s _).trans hsu).trans hut

/-- What a write of one bit of EECR changes (R413). -/
theorem State.writeEecrBit_frame {s t : State} {b : BitVec 3} {v : Bool} (h : s.writeEecrBit b v = .ok t) :
    EepromFrame s t := by
  unfold State.writeEecrBit at h
  split at h
  · cases h; exact State.setEerie_frame _ _
  · split at h
    · split at h
      · exact State.setEemwe_frame h
      · cases h; exact State.closeWindow_frame _
    · split at h
      · split at h
        · exact State.setEewe_frame h
        · cases h; exact .refl _
      · split at h
        · split at h
          · exact State.setEere_frame h
          · cases h; exact .refl _
        · cases h; exact .refl _

theorem EepromFrame.ioFrame {s t : State} (h : EepromFrame s t) : IoFrame s t := by
  have := h.1; unfold IoFrame; rw [this]

theorem EepromFrame.kept {s t : State} (h : EepromFrame s t) : Kept s t := by
  obtain ⟨he, hw⟩ := h
  have hd : t.dev = s.dev := by rw [he]
  refine ⟨⟨hd, by rw [he], by rw [he], by rw [he]⟩, fun hi => ?_⟩
  refine ⟨by rw [he]; exact hi.1, ?_, by rw [he]; exact hi.2.2.1, by rw [he]; exact hi.2.2.2⟩
  rcases hw with hw | ⟨w, hw, hb⟩
  · rw [hw, hd]; exact hi.2.1
  · rw [hw, hd]; simpa using hb

theorem State.unlessBusy_eq_ok {s u t : State} (h : s.unlessBusy u = .ok t) : s.busy = false ∧ t = u := by
  unfold State.unlessBusy at h
  split at h
  · exact absurd h refuse_ne_ok
  · exact ⟨by simpa using ‹¬ s.busy = true›, by simpa using h.symm⟩

/-- What a write of the I/O space leaves unchanged. -/
theorem State.ioWrite_frame {s t : State} {A : IoAddr} {v : Byte} (h : s.ioWrite A v = .ok t) : IoFrame s t := by
  unfold State.ioWrite at h
  split at h <;> first
    | (cases h; rfl)
    | (obtain ⟨-, rfl⟩ := State.unlessBusy_eq_ok h; rfl)
    | exact (State.writeEecr_frame h).ioFrame

theorem State.ioWrite_kept {s t : State} {A : IoAddr} {v : Byte} (h : s.ioWrite A v = .ok t) : Kept s t := by
  unfold State.ioWrite at h
  split at h
  case h_4 =>
    cases h
    refine ⟨⟨rfl, rfl, rfl, rfl⟩, fun hi => ⟨hi.1, hi.2.1, ?_, hi.2.2.2⟩⟩
    show (_ &&& _) &&& _ = _ &&& _
    rw [BitVec.and_assoc]; exact congrArg _ (BitVec.and_self ..)
  case h_5 =>
    cases h
    refine ⟨⟨rfl, rfl, rfl, rfl⟩, fun hi => ⟨hi.1, hi.2.1, hi.2.2.1, ?_⟩⟩
    show (_ &&& _) &&& _ = _ &&& _
    rw [BitVec.and_assoc]; exact congrArg _ (BitVec.and_self ..)
  all_goals first
    | (cases h; exact .of_eq rfl rfl rfl rfl rfl rfl rfl rfl)
    | (obtain ⟨-, rfl⟩ := State.unlessBusy_eq_ok h; exact .of_eq rfl rfl rfl rfl rfl rfl rfl rfl)
    | exact (State.writeEecr_frame h).kept

theorem State.ioWriteBit_frame {s t : State} {A : IoAddr} {b : BitVec 3} {v : Bool}
    (h : s.ioWriteBit A b v = .ok t) : IoFrame s t := by
  unfold State.ioWriteBit at h
  split at h
  · exact (State.writeEecrBit_frame h).ioFrame
  · cases h; rfl
  · exact State.ioWrite_frame h

theorem State.ioWriteBit_kept {s t : State} {A : IoAddr} {b : BitVec 3} {v : Bool}
    (h : s.ioWriteBit A b v = .ok t) : Kept s t := by
  unfold State.ioWriteBit at h
  split at h
  · exact (State.writeEecrBit_frame h).kept
  · cases h; exact .of_eq rfl rfl rfl rfl rfl rfl rfl rfl
  · exact State.ioWrite_kept h

/-! The data space. -/

/-- What `MemRead` can answer (20_memory.md R73). -/
theorem State.memRead_eq_ok {s t : State} {a : Word} {v : Byte} (h : s.memRead a = .ok (v, t)) :
    (a.toNat ≤ 0x1F ∧ v = s.reg (a.setWidth 5) ∧ t = s) ∨
    (0x1F < a.toNat ∧ a.toNat ≤ 0x5F ∧ (v, t) = s.ioRead (ioOfData a)) ∨
    (s.inSram a ∧ Memory.get? s.sram a.toNat = some v ∧ t = s) := by
  unfold State.memRead at h
  split at h
  · cases h; exact .inl ⟨‹_›, rfl, rfl⟩
  · split at h
    · exact .inr (.inl ⟨by omega, ‹_›, (Except.ok.inj h).symm⟩)
    · split at h
      · exact absurd h refuse_ne_ok
      · split at h
        · exact absurd h refuse_ne_ok
        · split at h
          · cases h; exact .inr (.inr ⟨⟨by omega, by omega, by omega⟩, ‹_›, rfl⟩)
          · exact absurd h fault_ne_ok

/-- What `MemWrite` can answer (R73). -/
theorem State.memWrite_eq_ok {s t : State} {a : Word} {v : Byte} (h : s.memWrite a v = .ok t) :
    (a.toNat ≤ 0x1F ∧ t = s.setReg (a.setWidth 5) v) ∨
    (0x1F < a.toNat ∧ a.toNat ≤ 0x5F ∧ s.ioWrite (ioOfData a) v = .ok t) ∨
    (s.inSram a ∧ t = { s with sram := Memory.put s.sram a.toNat v }) := by
  unfold State.memWrite at h
  split at h
  · cases h; exact .inl ⟨‹_›, rfl⟩
  · split at h
    · exact .inr (.inl ⟨by omega, ‹_›, h⟩)
    · split at h
      · exact absurd h refuse_ne_ok
      · split at h
        · exact absurd h refuse_ne_ok
        · cases h; exact .inr (.inr ⟨⟨by omega, by omega, by omega⟩, rfl⟩)

/-- A read of the data space changes only the counter of draws. -/
theorem State.memRead_state {s t : State} {a : Word} {v : Byte} (h : s.memRead a = .ok (v, t)) :
    t = { s with draws := t.draws } := by
  rcases State.memRead_eq_ok h with ⟨-, -, rfl⟩ | ⟨-, -, h⟩ | ⟨-, -, rfl⟩
  · rfl
  · have := State.ioRead_state s (ioOfData a)
    rw [← h] at this; exact this
  · rfl

theorem State.memRead_kept {s t : State} {a : Word} {v : Byte} (h : s.memRead a = .ok (v, t)) : Kept s t := by
  rw [State.memRead_state h]; exact .of_eq rfl rfl rfl rfl rfl rfl rfl rfl

theorem State.memWrite_kept {s t : State} {a : Word} {v : Byte} (h : s.memWrite a v = .ok t) : Kept s t := by
  rcases State.memWrite_eq_ok h with ⟨-, rfl⟩ | ⟨-, -, h⟩ | ⟨⟨-, hlo, hhi⟩, rfl⟩
  · exact State.setReg_kept ..
  · exact State.ioWrite_kept h
  · exact ⟨⟨rfl, rfl, rfl, rfl⟩, fun hi => ⟨Memory.wf_put hi.1 hlo (by omega) (by simp), hi.2⟩⟩

theorem State.memRead_sram {s : State} {a : Word} {v : Byte} (ha : s.inSram a)
    (h : Memory.get? s.sram a.toNat = some v) : s.memRead a = .ok (v, s) := by
  obtain ⟨hlo, hst, hhi⟩ := ha
  simp [State.memRead, show ¬ a.toNat ≤ 31 by omega, show ¬ a.toNat ≤ 95 by omega, show ¬ s.dev.ramEnd < a.toNat by omega,
    show ¬ a.toNat < s.dev.ramStart by omega, h]

theorem State.memWrite_sram {s : State} {a : Word} {v : Byte} (ha : s.inSram a) :
    s.memWrite a v = .ok { s with sram := Memory.put s.sram a.toNat v } := by
  obtain ⟨hlo, hst, hhi⟩ := ha
  simp [State.memWrite, show ¬ a.toNat ≤ 31 by omega, show ¬ a.toNat ≤ 95 by omega, show ¬ s.dev.ramEnd < a.toNat by omega,
    show ¬ a.toNat < s.dev.ramStart by omega]

/-- `MemRead` answers what `Reads` says. -/
theorem Reads.memRead {s u : State} {a : Word} {v : Byte} (h : Reads s a v u) : s.memRead a = .ok (v, u) := by
  rcases h with ⟨ha, rfl, rfl⟩ | ⟨hlo, hhi, h⟩ | ⟨ha, h, rfl⟩
  · simp [State.memRead, show a.toNat ≤ 31 by omega]
  · simp [State.memRead, show ¬ a.toNat ≤ 31 by omega, show a.toNat ≤ 95 by omega, h, ioOfData]
  · exact State.memRead_sram ha h

/-- `MemRead` stops where `ReadStops` says, with the reason it says. -/
theorem ReadStops.memRead {s : State} {a : Word} {e : Stop} (h : ReadStops s a e) : s.memRead a = .error e := by
  rcases h with ⟨⟨hlo, hst, hhi⟩, h, rfl⟩ | ⟨hlo, hhi, rfl⟩ | ⟨hlo, hst, hhi, rfl⟩
  · simp [State.memRead, show ¬ a.toNat ≤ 31 by omega, show ¬ a.toNat ≤ 95 by omega,
      show ¬ s.dev.ramEnd < a.toNat by omega, show ¬ a.toNat < s.dev.ramStart by omega, h, fault]
  · simp [State.memRead, show ¬ a.toNat ≤ 31 by omega, show ¬ a.toNat ≤ 95 by omega, hhi, refuse]
  · simp [State.memRead, show ¬ a.toNat ≤ 31 by omega, show ¬ a.toNat ≤ 95 by omega,
      show ¬ s.dev.ramEnd < a.toNat by omega, hst, refuse]

/-- `MemWrite` stops where `WriteStops` says, with the reason it says. -/
theorem WriteStops.memWrite {s : State} {a : Word} {v : Byte} {e : Stop} (h : WriteStops s a v e) :
    s.memWrite a v = .error e := by
  rcases h with ⟨hlo, hhi, h⟩ | ⟨hlo, hhi, rfl⟩ | ⟨hlo, hst, hhi, rfl⟩
  · simpa [State.memWrite, show ¬ a.toNat ≤ 31 by omega, show a.toNat ≤ 95 by omega, ioOfData] using h
  · simp [State.memWrite, show ¬ a.toNat ≤ 31 by omega, show ¬ a.toNat ≤ 95 by omega, hhi, refuse]
  · simp [State.memWrite, show ¬ a.toNat ≤ 31 by omega, show ¬ a.toNat ≤ 95 by omega,
      show ¬ s.dev.ramEnd < a.toNat by omega, hst, refuse]

/-! The stack. -/

/-- What a push can answer (10_state.md R40). -/
theorem State.push8_eq_ok {s t : State} {v : Byte} (h : s.push8 v = .ok t) :
    s.onStackPointer s.sp = false ∧ ∃ u, s.memWrite s.sp v = .ok u ∧ t = { u with sp := u.sp - 1 } := by
  unfold State.push8 at h
  split at h
  · exact absurd h refuse_ne_ok
  · obtain ⟨u, hu, ht⟩ := res_bind_eq_ok.1 h
    exact ⟨by simpa using ‹¬ s.onStackPointer s.sp = true›, u, hu, by simpa using ht.symm⟩

theorem State.push8_kept {s t : State} {v : Byte} (h : s.push8 v = .ok t) : Kept s t := by
  obtain ⟨-, u, hu, rfl⟩ := State.push8_eq_ok h
  exact (State.memWrite_kept hu).trans (.of_eq rfl rfl rfl rfl rfl rfl rfl rfl)

/-- What a pop can answer (R40). -/
theorem State.pop8_eq_ok {s t : State} {v : Byte} (h : s.pop8 = .ok (v, t)) :
    s.onStackPointer (s.sp + 1) = false ∧ State.memRead { s with sp := s.sp + 1 } (s.sp + 1) = .ok (v, t) := by
  unfold State.pop8 at h
  split at h
  · exact absurd h refuse_ne_ok
  · exact ⟨by simpa using ‹¬ s.onStackPointer (s.sp + 1) = true›, h⟩

/-- A pop changes only SP and the counter of draws. -/
theorem State.pop8_state {s t : State} {v : Byte} (h : s.pop8 = .ok (v, t)) :
    t = { s with sp := s.sp + 1, draws := t.draws } :=
  State.memRead_state (State.pop8_eq_ok h).2

theorem State.pop8_kept {s t : State} {v : Byte} (h : s.pop8 = .ok (v, t)) : Kept s t := by
  rw [State.pop8_state h]; exact .of_eq rfl rfl rfl rfl rfl rfl rfl rfl

theorem State.pushPc_kept {s t : State} {a : PcAddr} (h : s.pushPc a = .ok t) : Kept s t := by
  unfold State.pushPc at h
  obtain ⟨u, hu, h⟩ := res_bind_eq_ok.1 h
  obtain ⟨w, hw, h⟩ := res_bind_eq_ok.1 h
  refine ((State.push8_kept hu).trans (State.push8_kept hw)).trans ?_
  split at h
  · cases h; exact .refl _
  · exact State.push8_kept h

/-- A return-address pop changes only SP and the counter of draws. -/
theorem State.popPc_state {s t : State} {a : PcAddr} (h : s.popPc = .ok (a, t)) :
    t = { s with sp := t.sp, draws := t.draws } := by
  unfold State.popPc at h
  split at h
  · obtain ⟨⟨v, u⟩, hu, h⟩ := res_bind_eq_ok.1 h
    obtain ⟨⟨w, x⟩, hx, h⟩ := res_bind_eq_ok.1 h
    cases h
    rw [State.pop8_state hx, State.pop8_state hu]
  · obtain ⟨⟨v, u⟩, hu, h⟩ := res_bind_eq_ok.1 h
    obtain ⟨⟨w, x⟩, hx, h⟩ := res_bind_eq_ok.1 h
    obtain ⟨⟨y, z⟩, hz, h⟩ := res_bind_eq_ok.1 h
    cases h
    rw [State.pop8_state hz, State.pop8_state hx, State.pop8_state hu]

theorem State.popPc_kept {s t : State} {a : PcAddr} (h : s.popPc = .ok (a, t)) : Kept s t := by
  rw [State.popPc_state h]; exact .of_eq rfl rfl rfl rfl rfl rfl rfl rfl

/-! Interrupts. -/

/-- What an interrupt entry can answer (60_exceptions.md R404). -/
theorem State.interruptEntry_eq_ok {s t : State} {n : Nat} (h : s.interruptEntry n = .ok t) :
    ∃ u, s.pushPc s.pc = .ok u ∧
      t = { (u.setSregBit bitI false).clearIrq n with sleeping := false, window := .closed }.setPc
        (((u.setSregBit bitI false).clearIrq n).dev.vector n) := by
  obtain ⟨u, hu, ht⟩ := res_bind_eq_ok.1 h
  exact ⟨u, hu, by simpa using ht.symm⟩

/-- What a return from an interrupt can answer (R424). -/
theorem State.returnFromInterrupt_eq_ok {s t : State} (h : s.returnFromInterrupt = .ok t) :
    ∃ a u, s.popPc = .ok (a, u) ∧ t = { (u.setPc a).setSregBit bitI true with inhibit := true } := by
  obtain ⟨⟨a, u⟩, hu, ht⟩ := res_bind_eq_ok.1 h
  exact ⟨a, u, hu, by simpa using ht.symm⟩

/-! The operand forms. -/

/-- What a skip can answer (41_branch.md R239). -/
theorem State.skip_eq_ok {s t : State} {c : Bool} (h : s.skip c = .ok t) :
    (c = false ∧ t = s.advance 1) ∨
    (c = true ∧ ∃ w, s.progWord? (s.dev.wrap (s.pc + 1)).toNat = some w ∧
      (isTwoWord w = true → (s.progWord? (s.dev.wrap (s.pc + 2)).toNat).isSome = true) ∧
      t = s.advance (1 + BitVec.ofNat 22 (skipLen w))) := by
  unfold State.skip at h
  split at h
  · split at h
    · split at h
      · exact absurd h refuse_ne_ok
      · rename_i hw
        cases h
        refine .inr ⟨‹_›, _, ‹_›, fun h2 => ?_, rfl⟩
        simpa [h2, Option.isSome_iff_ne_none] using hw
    · exact absurd h refuse_ne_ok
  · cases h; exact .inl ⟨by simpa using ‹¬ c = true›, rfl⟩

/-- What a call can answer (R205 … R208). -/
theorem State.callTo_eq_ok {s t : State} {ret target : PcAddr} (h : s.callTo ret target = .ok t) :
    ∃ u, s.pushPc (s.dev.wrap ret) = .ok u ∧ t = u.setPc target := by
  obtain ⟨u, hu, ht⟩ := res_bind_eq_ok.1 h
  exact ⟨u, hu, by simpa using ht.symm⟩

/-- What a load can answer (42_data_transfer.md R260). -/
theorem State.load_eq_ok {s t : State} {d : Reg} {ea : Word} {n : PcAddr} (h : s.load d ea n = .ok t) :
    ∃ v u, s.memRead ea = .ok (v, u) ∧ t = (u.setReg d v).advance n := by
  obtain ⟨⟨v, u⟩, hu, ht⟩ := res_bind_eq_ok.1 h
  exact ⟨v, u, hu, by simpa using ht.symm⟩

/-- What a store can answer (R260). -/
theorem State.store_eq_ok {s t : State} {r : Reg} {ea : Word} {n : PcAddr} (h : s.store r ea n = .ok t) :
    ∃ u, s.memWrite ea (s.reg r) = .ok u ∧ t = u.advance n := by
  obtain ⟨u, hu, ht⟩ := res_bind_eq_ok.1 h
  exact ⟨u, hu, by simpa using ht.symm⟩

/-- A changed pointer is used only with a register and an address outside it (R303). -/
theorem Ptr.check_eq_ok {p : Ptr} {r : Reg} {ea : Word} {x : Unit} (h : p.check r ea = .ok x) :
    p.holds r = false ∧ p.at ea = false := by
  unfold Ptr.check at h
  split at h
  · exact absurd h refuse_ne_ok
  · split at h
    · exact absurd h refuse_ne_ok
    · exact ⟨by simpa using ‹¬ p.holds r = true›, by simpa using ‹¬ p.at ea = true›⟩

theorem State.loadInc_eq_ok {s t : State} {p : Ptr} {d : Reg} (h : s.loadInc p d = .ok t) :
    p.holds d = false ∧ p.at (s.ptr p) = false ∧
    ∃ v u, s.memRead (s.ptr p) = .ok (v, u) ∧ t = ((u.setReg d v).setPtr p (s.ptr p + 1)).advance 1 := by
  obtain ⟨x, hx, h⟩ := res_bind_eq_ok.1 h
  obtain ⟨⟨v, u⟩, hu, ht⟩ := res_bind_eq_ok.1 h
  exact ⟨(Ptr.check_eq_ok hx).1, (Ptr.check_eq_ok hx).2, v, u, hu, by simpa using ht.symm⟩

theorem State.loadDec_eq_ok {s t : State} {p : Ptr} {d : Reg} (h : s.loadDec p d = .ok t) :
    p.holds d = false ∧ p.at (s.ptr p - 1) = false ∧
    ∃ v u, (s.setPtr p (s.ptr p - 1)).memRead (s.ptr p - 1) = .ok (v, u) ∧ t = (u.setReg d v).advance 1 := by
  obtain ⟨x, hx, h⟩ := res_bind_eq_ok.1 h
  obtain ⟨⟨v, u⟩, hu, ht⟩ := res_bind_eq_ok.1 h
  exact ⟨(Ptr.check_eq_ok hx).1, (Ptr.check_eq_ok hx).2, v, u, hu, by simpa using ht.symm⟩

theorem State.storeInc_eq_ok {s t : State} {p : Ptr} {r : Reg} (h : s.storeInc p r = .ok t) :
    p.holds r = false ∧ p.at (s.ptr p) = false ∧
    ∃ u, s.memWrite (s.ptr p) (s.reg r) = .ok u ∧ t = (u.setPtr p (s.ptr p + 1)).advance 1 := by
  obtain ⟨x, hx, h⟩ := res_bind_eq_ok.1 h
  obtain ⟨u, hu, ht⟩ := res_bind_eq_ok.1 h
  exact ⟨(Ptr.check_eq_ok hx).1, (Ptr.check_eq_ok hx).2, u, hu, by simpa using ht.symm⟩

theorem State.storeDec_eq_ok {s t : State} {p : Ptr} {r : Reg} (h : s.storeDec p r = .ok t) :
    p.holds r = false ∧ p.at (s.ptr p - 1) = false ∧
    ∃ u, (s.setPtr p (s.ptr p - 1)).memWrite (s.ptr p - 1) (s.reg r) = .ok u ∧ t = u.advance 1 := by
  obtain ⟨x, hx, h⟩ := res_bind_eq_ok.1 h
  obtain ⟨u, hu, ht⟩ := res_bind_eq_ok.1 h
  exact ⟨(Ptr.check_eq_ok hx).1, (Ptr.check_eq_ok hx).2, u, hu, by simpa using ht.symm⟩

/-- What a constant read can answer (R290 … R294). -/
theorem State.loadProgram_eq_ok {s t : State} {d : Reg} {b : ProgByteAddr} (h : s.loadProgram d b = .ok t) :
    ∃ v, s.progByte b = .ok v ∧ t = (s.setReg d v).advance 1 := by
  obtain ⟨v, hv, ht⟩ := res_bind_eq_ok.1 h
  exact ⟨v, hv, by simpa using ht.symm⟩

end Sys2Proof.Machine
end

