-- ==== Sys2Proof/Laws/Agents.lean ====
section
/-! SUPPORT. What the agents' moves change, and what a step can do. -/

namespace Sys2Proof.Machine

/-- What the programmer's move can do (60_exceptions.md R417). -/
theorem State.programmerMove_cases (s : State) :
    (s.eeWrite = none ∧ s.programmerMove = s) ∨
    (∃ w, s.eeWrite = some w ∧ w.wait = 0 ∧
      s.programmerMove = { s with eeprom := Memory.write s.eeprom w.addr.toNat w.data, eeWrite := none }) ∨
    (∃ w, s.eeWrite = some w ∧ w.wait ≠ 0 ∧
      s.programmerMove = { s with eeWrite := some { w with wait := w.wait - 1 } }) := by
  unfold State.programmerMove
  split
  · exact .inl ⟨‹_›, rfl⟩
  · split
    · exact .inr (.inl ⟨_, ‹_›, ‹_›, rfl⟩)
    · exact .inr (.inr ⟨_, ‹_›, ‹_›, rfl⟩)

theorem mem_insertRising {n m : Nat} {l : List Nat} : m ∈ insertRising n l ↔ m = n ∨ m ∈ l := by
  induction l with
  | nil => simp [insertRising]
  | cons a l ih =>
    simp only [insertRising]
    split
    · simp
    · split
      · subst_vars; simp
      · simp [ih]; tauto

theorem pairwise_insertRising {n : Nat} {l : List Nat} (h : l.Pairwise (· < ·)) :
    (insertRising n l).Pairwise (· < ·) := by
  induction l with
  | nil => simp [insertRising]
  | cons a l ih =>
    simp only [insertRising]
    rw [List.pairwise_cons] at h
    split
    · rw [List.pairwise_cons, List.pairwise_cons]
      refine ⟨fun b hb => ?_, h⟩
      rcases List.mem_cons.1 hb with rfl | hb
      · assumption
      · exact Nat.lt_trans ‹_› (h.1 b hb)
    · split
      · rw [List.pairwise_cons]; exact h
      · rw [List.pairwise_cons]
        refine ⟨fun b hb => ?_, ih h.2⟩
        rcases mem_insertRising.1 hb with rfl | hb
        · omega
        · exact h.1 b hb

theorem mem_foldr_insertRising {k l : List Nat} {m : Nat} : m ∈ k.foldr insertRising l ↔ m ∈ k ∨ m ∈ l := by
  induction k with
  | nil => simp
  | cons a k ih => simp only [List.foldr_cons, mem_insertRising, ih, List.mem_cons]; tauto

theorem pairwise_foldr_insertRising {k l : List Nat} (h : l.Pairwise (· < ·)) :
    (k.foldr insertRising l).Pairwise (· < ·) := by
  induction k with
  | nil => exact h
  | cons a k ih => exact pairwise_insertRising ih

/-- The environment's move changes only the stored requests and the number of draws (R402). -/
theorem State.environmentMove_state (s : State) :
    s.environmentMove = { s with irq := s.environmentMove.irq, draws := s.environmentMove.draws } := by
  unfold State.environmentMove; split <;> rfl

/-- It clears no request and raises only sources of `ENV_IRQ` (R402). -/
theorem State.mem_environmentMove_irq (s : State) (n : Nat) :
    (n ∈ s.irq → n ∈ s.environmentMove.irq) ∧ (n ∈ s.environmentMove.irq → n ∈ s.irq ∨ n ∈ s.dev.envIrq) := by
  unfold State.environmentMove
  split
  · exact ⟨id, .inl⟩
  · refine ⟨fun h => mem_foldr_insertRising.2 (.inr h), fun h => ?_⟩
    rcases mem_foldr_insertRising.1 h with h | h
    · exact .inr (List.mem_filter.1 h).1
    · exact .inl h

/-- What the other agents leave to the processor. -/
theorem State.agents_state (s : State) :
    s.agents = { s with eeprom := s.agents.eeprom, eeWrite := s.agents.eeWrite, irq := s.agents.irq,
                        draws := s.agents.draws } := by
  have h : s.programmerMove =
      { s with eeprom := s.programmerMove.eeprom, eeWrite := s.programmerMove.eeWrite } := by
    rcases s.programmerMove_cases with ⟨-, h⟩ | ⟨w, -, -, h⟩ | ⟨w, -, -, h⟩ <;> rw [h]
  unfold State.agents
  rw [State.environmentMove_state, h]

@[simp] theorem State.agents_halted (s : State) : s.agents.halted = s.halted := by
  rw [State.agents_state]

/-- What a step can do (60_exceptions.md R405, 44_mcu_control.md R391). -/
theorem step_eq_next {s t : State} (h : step s = .next t) :
    (s.halted = true ∧ t = s.agents) ∨
    (∃ n, s.agents.sampled = some n ∧ State.interruptEntry { s.agents with inhibit := false } n = .ok t) ∨
    (s.agents.sampled = none ∧ s.agents.sleeping = true ∧ t = { s.agents with inhibit := false }) ∨
    (s.agents.sampled = none ∧ s.agents.sleeping = false ∧
      ∃ i, s.agents.fetch = .ok i ∧ exec i s.agents.beginInstr = .next t) := by
  unfold step processorStep at h
  split at h
  · cases h
    exact .inl ⟨by rw [← s.agents_halted]; assumption, rfl⟩
  · split at h
    · exact .inr (.inl ⟨_, ‹_›, finish_eq_next.1 h⟩)
    · split at h
      · cases h; exact .inr (.inr (.inl ⟨‹_›, ‹_›, rfl⟩))
      · split at h
        · exact .inr (.inr (.inr ⟨‹_›, by simpa using ‹¬ s.agents.sleeping = true›, _, ‹_›, h⟩))
        · cases h
        · cases h

/-- The source entered is pending, and no lower one is (R403). -/
theorem State.sampled_eq_some {s : State} {n : Nat} (h : s.sampled = some n) :
    bitOf s.sreg bitI = true ∧ s.inhibit = false ∧ 2 ≤ n ∧ s.pending n = true := by
  unfold State.sampled at h
  split at h
  · rename_i hi
    simp only [Bool.and_eq_true, Bool.not_eq_true'] at hi
    refine ⟨hi.1, hi.2, ?_, List.find?_some h⟩
    have := List.mem_of_find?_eq_some h
    exact (List.mem_range'_1.1 this).1
  · cases h

end Sys2Proof.Machine
end

