-- ==== Sys2Proof/Laws/Frames.lean ====
section
/-! SUPPORT. What the result-writing operations of Machine/Operands.lean write and leave unchanged, in the vocabulary of
Safety.lean. -/

namespace Sys2Proof.Machine

theorem Device.pow_pcBits_dvd (c : Device) : 2 ^ c.pcBits ∣ 2 ^ 22 := by
  apply pow_dvd_pow; unfold Device.pcBits; split <;> omega

theorem MovedBy.setPc {s u : State} (hd : u.dev = s.dev) {a : PcAddr} {n : Int}
    (h : (a.toNat : Int) % 2 ^ 22 = (s.pc.toNat + n) % 2 ^ 22) : MovedBy s (u.setPc a) n := by
  have hdvd : ((2 : Int) ^ s.dev.pcBits) ∣ 2 ^ 22 := by exact_mod_cast Device.pow_pcBits_dvd s.dev
  unfold MovedBy
  rw [State.setPc_pc, Device.wrap_toNat, hd]
  push_cast
  rw [← Int.emod_emod_of_dvd (a.toNat : Int) hdvd, h, Int.emod_emod_of_dvd _ hdvd]

theorem MovedBy.advance {s u : State} (hd : u.dev = s.dev) (hp : u.pc = s.pc) {n : PcAddr} {m : Int}
    (hm : (n.toNat : Int) = m) : MovedBy s (u.advance n) m := by
  apply MovedBy.setPc hd
  rw [hp, BitVec.toNat_add, ← hm]
  push_cast
  exact Int.emod_emod_of_dvd _ (dvd_refl _)

theorem MovedBy.advance_one {s u : State} (hd : u.dev = s.dev) (hp : u.pc = s.pc) : MovedBy s (u.advance 1) 1 :=
  MovedBy.advance hd hp rfl

theorem OtherRegs.setReg (s : State) (d : Reg) (v : Byte) : OtherRegs s (s.setReg d v) [d] := by
  intro x hx; simp only [List.mem_singleton] at hx; simp [State.reg_setReg, hx]

theorem OtherRegs.setPair (s : State) (d : Reg) (v : Word) : OtherRegs s (s.setPair d v) [d, d + 1] := by
  intro x hx
  simp only [List.mem_cons, List.not_mem_nil, or_false, not_or] at hx
  rw [State.reg_setPair, if_neg hx.2, if_neg hx.1]

@[simp] theorem State.alu_reg (s : State) (d : Reg) (v : Byte) (f : Flags) : (s.alu d v f).reg d = v := by
  simp [State.alu]
@[simp] theorem State.alu_flags (s : State) (d : Reg) (v : Byte) (f : Flags) : (s.alu d v f).flags = f := by
  simp [State.alu]
@[simp] theorem State.aluPair_pair (s : State) (d : Reg) (v : Word) (f : Flags) : (s.aluPair d v f).pair d = v :=
  State.pair_setPair s d v
@[simp] theorem State.aluPair_flags (s : State) (d : Reg) (v : Word) (f : Flags) : (s.aluPair d v f).flags = f := by
  simp [State.aluPair]
@[simp] theorem State.compare_flags (s : State) (f : Flags) : (s.compare f).flags = f := by
  simp [State.compare]

/-! The flag functions under the default configuration, and what any configuration keeps (00_scope.md R7 `flags`). -/

@[simp] theorem replaceFlags_default (fn : FlagFn) (x : FlagArgs) (old f : Flags) : replaceFlags [] fn x old f = f := rfl

/-- Under any configuration a flag is what its rule gives, or the default where it has none. -/
theorem replaceFlags_get (c : List FlagRule) (fn : FlagFn) (x : FlagArgs) (old f : Flags) (g : FlagName) :
    (replaceFlags c fn x old f).get g = replacedFlag c fn x old f g := by
  cases g <;> rfl

theorem Flags.ext_get {f g : Flags} (hi : f.i = g.i) (ht : f.t = g.t) (h : ∀ n, f.get n = g.get n) : f = g := by
  cases f; cases g
  simp only [Flags.mk.injEq]
  exact ⟨hi, ht, h .h, h .s, h .v, h .n, h .z, h .c⟩

/-- What a flag function answers is what `FlagsBy` says, for any property of the default function. -/
theorem FlagsBy.of_replace {s t : State} {fn : FlagFn} {x : FlagArgs} {P : Flags → Prop} {f : Flags}
    (h : t.flags = replaceFlags s.dev.flags fn x s.flags f) (hf : P f) : FlagsBy s t fn x P := by
  refine ⟨f, hf, by rw [h]; rfl, by rw [h]; rfl, fun g => ?_⟩
  rw [h, replaceFlags_get]; rfl

/-- Under the default configuration the flags are those of the default function. -/
theorem FlagsBy.default {s t : State} {fn : FlagFn} {x : FlagArgs} {P : Flags → Prop} (hd : s.dev.flags = [])
    (h : FlagsBy s t fn x P) : P t.flags := by
  obtain ⟨f, hf, hi, ht, hg⟩ := h
  have : t.flags = f := Flags.ext_get hi ht fun n => by rw [hg n, hd]; rfl
  rw [this]; exact hf

/-- A byte result is written to Rd, nothing else changes but SREG, and pc passes one word. -/
theorem State.alu_wroteByte (s : State) (d : Reg) (v : Byte) (f : Flags) {n : Int} (h : (v.toNat : Int) = n % 256) :
    WroteByte s (s.alu d v f) d n :=
  ⟨by rw [State.alu_reg]; exact h, OtherRegs.setReg s d v, rfl, MovedBy.advance_one rfl rfl⟩

/-- A word result is written to the pair, nothing else changes but SREG, and pc passes one word. -/
theorem State.aluPair_wrotePair (s : State) (d : Reg) (v : Word) (f : Flags) {n : Int}
    (h : (v.toNat : Int) = n % 65536) : WrotePair s (s.aluPair d v f) d n :=
  ⟨by rw [State.aluPair_pair]; exact h, OtherRegs.setPair s d v, rfl, MovedBy.advance_one rfl rfl⟩

theorem State.compare_onlySreg (s : State) (f : Flags) : OnlySreg s (s.compare f) ∧ MovedBy s (s.compare f) 1 :=
  ⟨rfl, MovedBy.advance_one rfl rfl⟩

theorem lowByte_wordOf (a b : Byte) : lowByte (wordOf a b) = b := by
  apply BitVec.eq_of_getLsbD_eq; intro i hi
  simp only [lowByte, wordOf, BitVec.getLsbD_extractLsb', BitVec.getLsbD_append]; simp [hi]

theorem highByte_wordOf (a b : Byte) : highByte (wordOf a b) = a := by
  apply BitVec.eq_of_getLsbD_eq; intro i hi
  simp only [highByte, wordOf, BitVec.getLsbD_extractLsb', BitVec.getLsbD_append]; simp [hi]

theorem wordOf_toNat (a b : Byte) : (wordOf a b).toNat = 256 * a.toNat + b.toNat := by
  have hb := b.isLt
  simp only [wordOf, BitVec.toNat_append]
  rw [← Nat.shiftLeft_add_eq_or_of_lt hb, Nat.shiftLeft_eq]; omega

theorem State.pair_toNat (s : State) (r : Reg) : (s.pair r).toNat = 256 * (s.reg (r + 1)).toNat + (s.reg r).toNat :=
  wordOf_toNat _ _

end Sys2Proof.Machine
end

