-- ==== Sys2Proof/Laws/PerInstr.lean ====
section
/-! SUPPORT. The per-instruction family BaseWords: an instruction and the base instruction a decoder reports for it have
the same words and the same operand ranges (30_encoding.md R109, R111, R114). -/

namespace Sys2Proof.Laws.BaseWords

/-- On either core the base of `i` has the words of `i` and is well-formed exactly when `i` is, and it is its own base. -/
def Statement (i : Instr) : Prop :=
  ∀ core : CoreKind, encode (i.base core) = encode i ∧ (i.base core).wf = i.wf ∧ (i.base core).base core = i.base core

theorem add (d r : Reg) : Statement (.add d r) := fun _ => ⟨rfl, rfl, rfl⟩

theorem adc (d r : Reg) : Statement (.adc d r) := fun _ => ⟨rfl, rfl, rfl⟩

theorem adiw (d : Reg) (K : BitVec 6) : Statement (.adiw d K) := fun _ => ⟨rfl, rfl, rfl⟩

theorem sub (d r : Reg) : Statement (.sub d r) := fun _ => ⟨rfl, rfl, rfl⟩

theorem subi (d : Reg) (K : Byte) : Statement (.subi d K) := fun _ => ⟨rfl, rfl, rfl⟩

theorem sbc (d r : Reg) : Statement (.sbc d r) := fun _ => ⟨rfl, rfl, rfl⟩

theorem sbci (d : Reg) (K : Byte) : Statement (.sbci d K) := fun _ => ⟨rfl, rfl, rfl⟩

theorem sbiw (d : Reg) (K : BitVec 6) : Statement (.sbiw d K) := fun _ => ⟨rfl, rfl, rfl⟩

theorem and (d r : Reg) : Statement (.and d r) := fun _ => ⟨rfl, rfl, rfl⟩

theorem andi (d : Reg) (K : Byte) : Statement (.andi d K) := fun _ => ⟨rfl, rfl, rfl⟩

theorem or (d r : Reg) : Statement (.or d r) := fun _ => ⟨rfl, rfl, rfl⟩

theorem ori (d : Reg) (K : Byte) : Statement (.ori d K) := fun _ => ⟨rfl, rfl, rfl⟩

theorem eor (d r : Reg) : Statement (.eor d r) := fun _ => ⟨rfl, rfl, rfl⟩

theorem com (d : Reg) : Statement (.com d) := fun _ => ⟨rfl, rfl, rfl⟩

theorem neg (d : Reg) : Statement (.neg d) := fun _ => ⟨rfl, rfl, rfl⟩

theorem sbr (d : Reg) (K : Byte) : Statement (.sbr d K) := fun _ => ⟨rfl, rfl, rfl⟩

theorem cbr (d : Reg) (K : Byte) : Statement (.cbr d K) := fun _ => ⟨rfl, rfl, rfl⟩

theorem inc (d : Reg) : Statement (.inc d) := fun _ => ⟨rfl, rfl, rfl⟩

theorem dec (d : Reg) : Statement (.dec d) := fun _ => ⟨rfl, rfl, rfl⟩

theorem tst (d : Reg) : Statement (.tst d) := fun _ => ⟨rfl, rfl, rfl⟩

theorem clr (d : Reg) : Statement (.clr d) := fun _ => ⟨rfl, rfl, rfl⟩

theorem ser (d : Reg) : Statement (.ser d) := fun _ => ⟨rfl, rfl, rfl⟩

theorem mul (d r : Reg) : Statement (.mul d r) := fun _ => ⟨rfl, rfl, rfl⟩

theorem muls (d r : Reg) : Statement (.muls d r) := fun _ => ⟨rfl, rfl, rfl⟩

theorem mulsu (d r : Reg) : Statement (.mulsu d r) := fun _ => ⟨rfl, rfl, rfl⟩

theorem fmul (d r : Reg) : Statement (.fmul d r) := fun _ => ⟨rfl, rfl, rfl⟩

theorem fmuls (d r : Reg) : Statement (.fmuls d r) := fun _ => ⟨rfl, rfl, rfl⟩

theorem fmulsu (d r : Reg) : Statement (.fmulsu d r) := fun _ => ⟨rfl, rfl, rfl⟩

theorem rjmp (k : BitVec 12) : Statement (.rjmp k) := fun _ => ⟨rfl, rfl, rfl⟩

theorem ijmp : Statement .ijmp := fun _ => ⟨rfl, rfl, rfl⟩

theorem eijmp : Statement .eijmp := fun _ => ⟨rfl, rfl, rfl⟩

theorem jmp (k : PcAddr) : Statement (.jmp k) := fun _ => ⟨rfl, rfl, rfl⟩

theorem rcall (k : BitVec 12) : Statement (.rcall k) := fun _ => ⟨rfl, rfl, rfl⟩

theorem icall : Statement .icall := fun _ => ⟨rfl, rfl, rfl⟩

theorem eicall : Statement .eicall := fun _ => ⟨rfl, rfl, rfl⟩

theorem call (k : PcAddr) : Statement (.call k) := fun _ => ⟨rfl, rfl, rfl⟩

theorem ret : Statement .ret := fun _ => ⟨rfl, rfl, rfl⟩

theorem reti : Statement .reti := fun _ => ⟨rfl, rfl, rfl⟩

theorem cpse (d r : Reg) : Statement (.cpse d r) := fun _ => ⟨rfl, rfl, rfl⟩

theorem cp (d r : Reg) : Statement (.cp d r) := fun _ => ⟨rfl, rfl, rfl⟩

theorem cpc (d r : Reg) : Statement (.cpc d r) := fun _ => ⟨rfl, rfl, rfl⟩

theorem cpi (d : Reg) (K : Byte) : Statement (.cpi d K) := fun _ => ⟨rfl, rfl, rfl⟩

theorem sbrc (r : Reg) (b : BitVec 3) : Statement (.sbrc r b) := fun _ => ⟨rfl, rfl, rfl⟩

theorem sbrs (r : Reg) (b : BitVec 3) : Statement (.sbrs r b) := fun _ => ⟨rfl, rfl, rfl⟩

theorem sbic (A : BitVec 5) (b : BitVec 3) : Statement (.sbic A b) := fun _ => ⟨rfl, rfl, rfl⟩

theorem sbis (A : BitVec 5) (b : BitVec 3) : Statement (.sbis A b) := fun _ => ⟨rfl, rfl, rfl⟩

theorem brbs (s : BitVec 3) (k : BitVec 7) : Statement (.brbs s k) := fun _ => ⟨rfl, rfl, rfl⟩

theorem brbc (s : BitVec 3) (k : BitVec 7) : Statement (.brbc s k) := fun _ => ⟨rfl, rfl, rfl⟩

theorem breq (k : BitVec 7) : Statement (.breq k) := fun _ => ⟨rfl, rfl, rfl⟩

theorem brne (k : BitVec 7) : Statement (.brne k) := fun _ => ⟨rfl, rfl, rfl⟩

theorem brcs (k : BitVec 7) : Statement (.brcs k) := fun _ => ⟨rfl, rfl, rfl⟩

theorem brcc (k : BitVec 7) : Statement (.brcc k) := fun _ => ⟨rfl, rfl, rfl⟩

theorem brsh (k : BitVec 7) : Statement (.brsh k) := fun _ => ⟨rfl, rfl, rfl⟩

theorem brlo (k : BitVec 7) : Statement (.brlo k) := fun _ => ⟨rfl, rfl, rfl⟩

theorem brmi (k : BitVec 7) : Statement (.brmi k) := fun _ => ⟨rfl, rfl, rfl⟩

theorem brpl (k : BitVec 7) : Statement (.brpl k) := fun _ => ⟨rfl, rfl, rfl⟩

theorem brge (k : BitVec 7) : Statement (.brge k) := fun _ => ⟨rfl, rfl, rfl⟩

theorem brlt (k : BitVec 7) : Statement (.brlt k) := fun _ => ⟨rfl, rfl, rfl⟩

theorem brhs (k : BitVec 7) : Statement (.brhs k) := fun _ => ⟨rfl, rfl, rfl⟩

theorem brhc (k : BitVec 7) : Statement (.brhc k) := fun _ => ⟨rfl, rfl, rfl⟩

theorem brts (k : BitVec 7) : Statement (.brts k) := fun _ => ⟨rfl, rfl, rfl⟩

theorem brtc (k : BitVec 7) : Statement (.brtc k) := fun _ => ⟨rfl, rfl, rfl⟩

theorem brvs (k : BitVec 7) : Statement (.brvs k) := fun _ => ⟨rfl, rfl, rfl⟩

theorem brvc (k : BitVec 7) : Statement (.brvc k) := fun _ => ⟨rfl, rfl, rfl⟩

theorem brie (k : BitVec 7) : Statement (.brie k) := fun _ => ⟨rfl, rfl, rfl⟩

theorem brid (k : BitVec 7) : Statement (.brid k) := fun _ => ⟨rfl, rfl, rfl⟩

theorem mov (d r : Reg) : Statement (.mov d r) := fun _ => ⟨rfl, rfl, rfl⟩

theorem movw (d r : Reg) : Statement (.movw d r) := fun _ => ⟨rfl, rfl, rfl⟩

theorem ldi (d : Reg) (K : Byte) : Statement (.ldi d K) := fun _ => ⟨rfl, rfl, rfl⟩

theorem lds (d : Reg) (k : Word) : Statement (.lds d k) := fun _ => ⟨rfl, rfl, rfl⟩

theorem ldsShort (d : Reg) (k : BitVec 7) : Statement (.ldsShort d k) := fun _ => ⟨rfl, rfl, rfl⟩

theorem ldX (d : Reg) : Statement (.ldX d) := fun _ => ⟨rfl, rfl, rfl⟩

theorem ldXInc (d : Reg) : Statement (.ldXInc d) := fun _ => ⟨rfl, rfl, rfl⟩

theorem ldXDec (d : Reg) : Statement (.ldXDec d) := fun _ => ⟨rfl, rfl, rfl⟩

theorem ldY : ∀ d : Reg, Statement (.ldY d) := by
  intro d core
  cases core
  · exact ⟨by revert d; decide +kernel, rfl, rfl⟩
  · exact ⟨rfl, rfl, rfl⟩

theorem ldYInc (d : Reg) : Statement (.ldYInc d) := fun _ => ⟨rfl, rfl, rfl⟩

theorem ldYDec (d : Reg) : Statement (.ldYDec d) := fun _ => ⟨rfl, rfl, rfl⟩

theorem lddY (d : Reg) (q : BitVec 6) : Statement (.lddY d q) := fun _ => ⟨rfl, rfl, rfl⟩

theorem ldZ : ∀ d : Reg, Statement (.ldZ d) := by
  intro d core
  cases core
  · exact ⟨by revert d; decide +kernel, rfl, rfl⟩
  · exact ⟨rfl, rfl, rfl⟩

theorem ldZInc (d : Reg) : Statement (.ldZInc d) := fun _ => ⟨rfl, rfl, rfl⟩

theorem ldZDec (d : Reg) : Statement (.ldZDec d) := fun _ => ⟨rfl, rfl, rfl⟩

theorem lddZ (d : Reg) (q : BitVec 6) : Statement (.lddZ d q) := fun _ => ⟨rfl, rfl, rfl⟩

theorem sts (k : Word) (r : Reg) : Statement (.sts k r) := fun _ => ⟨rfl, rfl, rfl⟩

theorem stsShort (k : BitVec 7) (r : Reg) : Statement (.stsShort k r) := fun _ => ⟨rfl, rfl, rfl⟩

theorem stX (r : Reg) : Statement (.stX r) := fun _ => ⟨rfl, rfl, rfl⟩

theorem stXInc (r : Reg) : Statement (.stXInc r) := fun _ => ⟨rfl, rfl, rfl⟩

theorem stXDec (r : Reg) : Statement (.stXDec r) := fun _ => ⟨rfl, rfl, rfl⟩

theorem stY : ∀ r : Reg, Statement (.stY r) := by
  intro r core
  cases core
  · exact ⟨by revert r; decide +kernel, rfl, rfl⟩
  · exact ⟨rfl, rfl, rfl⟩

theorem stYInc (r : Reg) : Statement (.stYInc r) := fun _ => ⟨rfl, rfl, rfl⟩

theorem stYDec (r : Reg) : Statement (.stYDec r) := fun _ => ⟨rfl, rfl, rfl⟩

theorem stdY (q : BitVec 6) (r : Reg) : Statement (.stdY q r) := fun _ => ⟨rfl, rfl, rfl⟩

theorem stZ : ∀ r : Reg, Statement (.stZ r) := by
  intro r core
  cases core
  · exact ⟨by revert r; decide +kernel, rfl, rfl⟩
  · exact ⟨rfl, rfl, rfl⟩

theorem stZInc (r : Reg) : Statement (.stZInc r) := fun _ => ⟨rfl, rfl, rfl⟩

theorem stZDec (r : Reg) : Statement (.stZDec r) := fun _ => ⟨rfl, rfl, rfl⟩

theorem stdZ (q : BitVec 6) (r : Reg) : Statement (.stdZ q r) := fun _ => ⟨rfl, rfl, rfl⟩

theorem lpm : Statement .lpm := fun _ => ⟨rfl, rfl, rfl⟩

theorem lpmZ (d : Reg) : Statement (.lpmZ d) := fun _ => ⟨rfl, rfl, rfl⟩

theorem lpmZInc (d : Reg) : Statement (.lpmZInc d) := fun _ => ⟨rfl, rfl, rfl⟩

theorem elpm : Statement .elpm := fun _ => ⟨rfl, rfl, rfl⟩

theorem elpmZ (d : Reg) : Statement (.elpmZ d) := fun _ => ⟨rfl, rfl, rfl⟩

theorem elpmZInc (d : Reg) : Statement (.elpmZInc d) := fun _ => ⟨rfl, rfl, rfl⟩

theorem spm : Statement .spm := fun _ => ⟨rfl, rfl, rfl⟩

theorem spmZInc : Statement .spmZInc := fun _ => ⟨rfl, rfl, rfl⟩

theorem inp (d : Reg) (A : IoAddr) : Statement (.inp d A) := fun _ => ⟨rfl, rfl, rfl⟩

theorem out (A : IoAddr) (r : Reg) : Statement (.out A r) := fun _ => ⟨rfl, rfl, rfl⟩

theorem push (r : Reg) : Statement (.push r) := fun _ => ⟨rfl, rfl, rfl⟩

theorem pop (d : Reg) : Statement (.pop d) := fun _ => ⟨rfl, rfl, rfl⟩

theorem xch (d : Reg) : Statement (.xch d) := fun _ => ⟨rfl, rfl, rfl⟩

theorem lsl (d : Reg) : Statement (.lsl d) := fun _ => ⟨rfl, rfl, rfl⟩

theorem lsr (d : Reg) : Statement (.lsr d) := fun _ => ⟨rfl, rfl, rfl⟩

theorem rol (d : Reg) : Statement (.rol d) := fun _ => ⟨rfl, rfl, rfl⟩

theorem ror (d : Reg) : Statement (.ror d) := fun _ => ⟨rfl, rfl, rfl⟩

theorem asr (d : Reg) : Statement (.asr d) := fun _ => ⟨rfl, rfl, rfl⟩

theorem swap (d : Reg) : Statement (.swap d) := fun _ => ⟨rfl, rfl, rfl⟩

theorem bset (s : BitVec 3) : Statement (.bset s) := fun _ => ⟨rfl, rfl, rfl⟩

theorem bclr (s : BitVec 3) : Statement (.bclr s) := fun _ => ⟨rfl, rfl, rfl⟩

theorem sbi (A : BitVec 5) (b : BitVec 3) : Statement (.sbi A b) := fun _ => ⟨rfl, rfl, rfl⟩

theorem cbi (A : BitVec 5) (b : BitVec 3) : Statement (.cbi A b) := fun _ => ⟨rfl, rfl, rfl⟩

theorem bst (d : Reg) (b : BitVec 3) : Statement (.bst d b) := fun _ => ⟨rfl, rfl, rfl⟩

theorem bld (d : Reg) (b : BitVec 3) : Statement (.bld d b) := fun _ => ⟨rfl, rfl, rfl⟩

theorem sec : Statement .sec := fun _ => ⟨rfl, rfl, rfl⟩

theorem clc : Statement .clc := fun _ => ⟨rfl, rfl, rfl⟩

theorem sen : Statement .sen := fun _ => ⟨rfl, rfl, rfl⟩

theorem cln : Statement .cln := fun _ => ⟨rfl, rfl, rfl⟩

theorem sez : Statement .sez := fun _ => ⟨rfl, rfl, rfl⟩

theorem clz : Statement .clz := fun _ => ⟨rfl, rfl, rfl⟩

theorem sei : Statement .sei := fun _ => ⟨rfl, rfl, rfl⟩

theorem cli : Statement .cli := fun _ => ⟨rfl, rfl, rfl⟩

theorem ses : Statement .ses := fun _ => ⟨rfl, rfl, rfl⟩

theorem cls : Statement .cls := fun _ => ⟨rfl, rfl, rfl⟩

theorem sev : Statement .sev := fun _ => ⟨rfl, rfl, rfl⟩

theorem clv : Statement .clv := fun _ => ⟨rfl, rfl, rfl⟩

theorem setT : Statement .setT := fun _ => ⟨rfl, rfl, rfl⟩

theorem clt : Statement .clt := fun _ => ⟨rfl, rfl, rfl⟩

theorem seh : Statement .seh := fun _ => ⟨rfl, rfl, rfl⟩

theorem clh : Statement .clh := fun _ => ⟨rfl, rfl, rfl⟩

theorem brk : Statement .brk := fun _ => ⟨rfl, rfl, rfl⟩

theorem nop : Statement .nop := fun _ => ⟨rfl, rfl, rfl⟩

theorem sleep : Statement .sleep := fun _ => ⟨rfl, rfl, rfl⟩

theorem wdr : Statement .wdr := fun _ => ⟨rfl, rfl, rfl⟩

end Sys2Proof.Laws.BaseWords
end

