-- ==== Sys2Proof/Laws/Stack.lean ====
section
/-! SUPPORT. The stack in SRAM and the targets of jumps, each said once: pushing and popping a byte, pushing and popping
an address, and the number that each computed target is. -/

namespace Sys2Proof.Machine

theorem dataOfIo_toNat (A : IoAddr) : (dataOfIo A).toNat = A.toNat + 32 := by
  revert A; decide
theorem State.onStackPointer_sram (s : State) (a : Word) (h : s.inSram a) : s.onStackPointer a = false := by
  unfold State.onStackPointer
  have : ∀ A : IoAddr, a ≠ dataOfIo A := by
    intro A e; have := dataOfIo_toNat A; have := A.isLt; have := h.1; rw [← e] at *; omega
  simp [this]
theorem State.push8_sram (s : State) (v : Byte) (h : s.inSram s.sp) :
   s.push8 v = .ok { s with sram := Memory.put s.sram s.sp.toNat v, sp := s.sp - 1 } := by
  unfold State.push8; rw [State.onStackPointer_sram _ _ h]; simp [State.memWrite_sram h]
theorem State.pop8_sram (s : State) (v : Byte) (h : s.inSram (s.sp + 1)) (hv : Memory.get? s.sram (s.sp+1).toNat = some v) :
   s.pop8 = .ok (v, { s with sp := s.sp + 1 }) := by
  unfold State.pop8; rw [State.onStackPointer_sram _ _ h]; simp; exact State.memRead_sram (s := { s with sp := s.sp + 1 }) h hv

theorem Word.toNat_sub_one (a : Word) (h : 1 ≤ a.toNat) : (a - 1).toNat = a.toNat - 1 := by
  rw [BitVec.toNat_sub]; have := a.isLt; simp; omega
theorem State.pushPc_sram (s : State) (a : PcAddr) (h : s.stackInSram) : ∃ t, s.pushPc a = .ok t ∧ PushedAddress s t a ∧
    t = { s with sp := t.sp, sram := t.sram } := by
  obtain ⟨h1, h3, h2⟩ := h
  unfold returnBytes at h1 h3
  unfold State.pushPc PushedAddress returnBytes
  cases hc : s.dev.pcClass <;> simp only [hc] at h1 h3 ⊢ <;> simp at h1 h3
  · rw [State.push8_sram _ _ ⟨by omega, by omega, h2⟩]
    simp only [res_bind_ok]
    have e1 := Word.toNat_sub_one s.sp (by omega)
    rw [State.push8_sram _ _ ⟨by simp; omega, by simp; omega, by simp; omega⟩]
    simp only [res_bind_ok, hc]
    refine ⟨_, rfl, ⟨?_, ?_, ?_⟩, ?_⟩; rotate_right; · rfl
    · intro k hk; simp at hk
      simp only [Memory.get?_put]
      simp at e1
      interval_cases k
      · simp [e1]; omega
      · simp [e1]
    · intro x hx
      simp only [Memory.get?_put]
      simp at e1 hx
      have := hx 0 (by omega); have := hx 1 (by omega)
      rw [if_neg (by simp [e1]; omega), if_neg (by omega)]
    · show s.sp - 1 - 1 = s.sp - 2#16
      bv_omega
  · rw [State.push8_sram _ _ ⟨by omega, by omega, h2⟩]
    simp only [res_bind_ok]
    have e1 := Word.toNat_sub_one s.sp (by omega)
    have e2 := Word.toNat_sub_one (s.sp-1) (by omega)
    rw [State.push8_sram _ _ ⟨by simp; omega, by simp; omega, by simp; omega⟩]
    simp only [res_bind_ok, hc]
    rw [State.push8_sram _ _ ⟨by simp only []; omega, by simp only []; omega, by simp only []; omega⟩]
    refine ⟨_, rfl, ⟨?_, ?_, ?_⟩, ?_⟩; rotate_right; · rfl
    · intro k hk; simp at hk
      simp only [Memory.get?_put]
      interval_cases k
      · simp [e1, e2]; rw [if_neg (by simp at e1 e2; omega), if_neg (by simp at e1 e2; omega)]
      · simp [e1, e2]; rw [if_neg (by simp at e1 e2; omega)]; rw [if_pos (by simp at e1; omega)]
      · rw [if_pos (by omega)]; rfl
    · intro x hx
      simp only [Memory.get?_put]
      simp at hx
      have := hx 0 (by omega); have := hx 1 (by omega);  have := hx 2 (by omega)
      rw [if_neg (by omega), if_neg (by omega), if_neg (by omega)]
    · show s.sp - 1 - 1 - 1 = s.sp - 3#16
      bv_omega
theorem Word.toNat_add_one (a : Word) (h : a.toNat + 1 < 65536) : (a + 1).toNat = a.toNat + 1 := by
  rw [BitVec.toNat_add]; simp; omega
theorem returnAddress16 (a : PcAddr) (h : a.toNat < 65536) : (0#6 ++ a.extractLsb' 8 8 ++ a.extractLsb' 0 8 : PcAddr) = a := by
  apply BitVec.eq_of_getLsbD_eq; intro i hi
  simp only [BitVec.getLsbD_append, BitVec.getLsbD_extractLsb']
  by_cases h1 : i < 8
  · simp [h1]
  · by_cases h2 : i < 16
    · have : i - 8 < 8 := by omega
      simp [h1, this, show 8 + (i-8) = i by omega]
    · have : ¬ i - 8 < 8 := by omega
      simp [h1, this]
      rw [BitVec.getLsbD, Nat.testBit_lt_two_pow]
      calc a.toNat < 2^16 := h
        _ ≤ 2^i := Nat.pow_le_pow_right (by omega) (by omega)
theorem returnAddress22 (a : PcAddr) : (((0#2 ++ a.extractLsb' 16 6 : Byte).extractLsb' 0 6) ++ a.extractLsb' 8 8 ++ a.extractLsb' 0 8 : PcAddr) = a := by
  apply BitVec.eq_of_getLsbD_eq; intro i hi
  simp only [BitVec.getLsbD_append, BitVec.getLsbD_extractLsb']
  by_cases h1 : i < 8
  · simp [h1]
  · by_cases h2 : i < 16
    · have : i - 8 < 8 := by omega
      simp [h1, this, show 8 + (i-8) = i by omega]
    · have : ¬ i - 8 < 8 := by omega
      have h3 : i - 8 - 8 < 6 := by omega
      simp [h1, this, h3, show 16 + (i-8-8) = i by omega]
/-- As `HoldsReturn`, with the bound of the 16-bit SP. -/
def ReturnReadable (s : State) (a : PcAddr) : Prop :=
  let bytes := returnBytes s.dev a
  s.sp.toNat + bytes.length ≤ s.dev.ramEnd ∧ s.sp.toNat + bytes.length < 2 ^ 16 ∧ 0x5F ≤ s.sp.toNat ∧
  s.dev.ramStart ≤ s.sp.toNat + 1 ∧
  ∀ k, k < bytes.length → Memory.get? s.sram (s.sp.toNat + bytes.length - k) = bytes[k]?
theorem State.popPc_sram (s : State) (a : PcAddr) (h : ReturnReadable s a) (ha : a.toNat < 2^s.dev.pcBits) :
   s.popPc = .ok (a, { s with sp := s.sp + BitVec.ofNat 16 (returnBytes s.dev a).length }) := by
  obtain ⟨h1, h2, h3, h5, h4⟩ := h
  unfold returnBytes Device.pcBits at *
  unfold State.popPc
  cases hc : s.dev.pcClass <;> simp only [hc] at h1 h2 h4 ha ⊢ <;> simp at h1 h2 h4
  · have e1 := Word.toNat_add_one s.sp (by omega)
    have e2 := Word.toNat_add_one (s.sp+1) (by omega)
    have h40 := h4 0 (by omega)
    have h41 := h4 1 (by omega)
    rw [State.pop8_sram _ (a.extractLsb' 8 8) ⟨by omega, by omega, by omega⟩ (by rw [e1]; simpa using h41)]
    simp only [res_bind_ok]
    rw [State.pop8_sram _ (a.extractLsb' 0 8) ⟨by simp only []; omega, by simp only []; omega, by simp only []; omega⟩ (by simp only []; rw [e2, e1]; simpa using h40)]
    simp only [res_bind_ok]
    rw [returnAddress16 a ha]
    simp; bv_omega
  · have e1 := Word.toNat_add_one s.sp (by omega)
    have e2 := Word.toNat_add_one (s.sp+1) (by omega)
    have e3 := Word.toNat_add_one (s.sp+1+1) (by omega)
    have h40 := h4 0 (by omega)
    have h41 := h4 1 (by omega)
    have h42 := h4 2 (by omega)
    rw [State.pop8_sram _ (0#2 ++ a.extractLsb' 16 6) ⟨by omega, by omega, by omega⟩ (by rw [e1]; simpa using h42)]
    simp only [res_bind_ok]
    rw [State.pop8_sram _ (a.extractLsb' 8 8) ⟨by simp only []; omega, by simp only []; omega, by simp only []; omega⟩ (by simp only []; rw [e2, e1]; simpa using h41)]
    simp only [res_bind_ok]
    rw [State.pop8_sram _ (a.extractLsb' 0 8) ⟨by simp only []; omega, by simp only []; omega, by simp only []; omega⟩ (by simp only []; rw [e3, e2, e1]; simpa using h40)]
    simp only [res_bind_ok]
    rw [returnAddress22 a]
    simp; bv_omega
theorem returnBytes_length (c : Device) (a b : PcAddr) : (returnBytes c a).length = (returnBytes c b).length := by
  unfold returnBytes; cases c.pcClass <;> rfl
theorem returnBytes_length_le (c : Device) (a : PcAddr) : 2 ≤ (returnBytes c a).length ∧ (returnBytes c a).length ≤ 3 := by
  unfold returnBytes; cases c.pcClass <;> simp
/-- A pushed address can be popped again: the return pops what the call or the entry pushed, and SP comes back. -/
theorem PushedAddress.holds (s t : State) (a : PcAddr) (h : s.stackInSram) (hp : PushedAddress s t a) (hd : t.dev = s.dev) :
   ReturnReadable t a ∧ t.sp + BitVec.ofNat 16 (returnBytes s.dev a).length = s.sp := by
  obtain ⟨p1, p2, p3⟩ := hp
  obtain ⟨h1, h3, h2⟩ := h
  rw [returnBytes_length s.dev 0 a] at h1 h3
  have hl := returnBytes_length_le s.dev a
  have hx : t.sp.toNat = s.sp.toNat - (returnBytes s.dev a).length := by
    rw [p3, BitVec.toNat_sub]; have := s.sp.isLt; simp; omega
  refine ⟨⟨?_, ?_, ?_, ?_, ?_⟩, ?_⟩
  · rw [hd]; omega
  · rw [hd]; have := s.sp.isLt; omega
  · omega
  · rw [hd]; omega
  · intro k hk; rw [hd] at hk ⊢; rw [← p1 k hk]; congr 1; omega
  · rw [p3]; exact BitVec.sub_add_cancel _ _

theorem HoldsReturn.readable (s : State) (a : PcAddr) (h : HoldsReturn s a) : ReturnReadable s a := ⟨h.1, by have := h.1; have := h.2.1; omega, h.2.2⟩

theorem State.target12_toNat (s : State) (k : BitVec 12) : ((s.target12 k).toNat : Int) % 2^22 = (s.pc.toNat + (k.toInt + 1)) % 2^22 := by
  unfold State.target12
  have h := BitVec.toInt_signExtend_eq_toInt_bmod_of_le (x := k) (v := 22)
  rw [BitVec.toNat_add, BitVec.toNat_add]
  have : ((k.signExtend 22).toNat : Int) = k.toInt % 2^22 := by
    rw [show (k.signExtend 22) = BitVec.ofInt 22 k.toInt from rfl, BitVec.toNat_ofInt]; omega
  push_cast; rw [this]; simp; omega
theorem State.target7_toNat (s : State) (k : BitVec 7) : ((s.target7 k).toNat : Int) % 2^22 = (s.pc.toNat + (k.toInt + 1)) % 2^22 := by
  unfold State.target7
  rw [BitVec.toNat_add, BitVec.toNat_add]
  have : ((k.signExtend 22).toNat : Int) = k.toInt % 2^22 := by
    rw [show (k.signExtend 22) = BitVec.ofInt 22 k.toInt from rfl, BitVec.toNat_ofInt]; omega
  push_cast; rw [this]; simp; omega
theorem Device.wrap_word (c : Device) (w : Word) : (c.wrap (w.setWidth 22)).toNat = w.toNat := by
  rw [Device.wrap_toNat]
  have h1 : (w.setWidth 22).toNat = w.toNat := by simp; omega
  rw [h1]; apply Nat.mod_eq_of_lt; unfold Device.pcBits; have := w.isLt; split <;> omega
theorem State.eindZ_toNat (s : State) : s.eindZ.toNat = 65536 * (s.eind.toNat % 64) + 256 * (s.reg 31).toNat + (s.reg 30).toNat := by
  unfold State.eindZ
  rw [BitVec.toNat_append, ← Nat.shiftLeft_add_eq_or_of_lt (s.ptr .z).isLt, Nat.shiftLeft_eq]
  have : (s.ptr .z).toNat = 256 * (s.reg 31).toNat + (s.reg 30).toNat := State.pair_toNat s 30
  rw [this]; simp; omega

end Sys2Proof.Machine
end

