-- ==== Sys2Proof/Tests/Slice0.lean ====
section
/-! SUPPORT. Tests: well-formedness refuses what it must, the decoding of every constructor by a word written out from the
spec's encoding, one-step vectors (95_test_vectors.md Part B and the worked examples of the rules), and one witness for
each obligation that has hypotheses. -/

namespace Sys2Proof.Tests

open Sys2Proof Sys2Proof.Machine

set_option Elab.async false

/-! Well-formedness: for each check an ill-formed term that it refuses, and the nearest one that it accepts. -/

theorem test_wf_high : (Instr.ldi 15 0).wf = false ∧ (Instr.ldi 16 0).wf = true := by decide
theorem test_wf_high_second : (Instr.muls 16 15).wf = false ∧ (Instr.muls 16 31).wf = true := by decide
theorem test_wf_high_store : (Instr.stsShort 0 15).wf = false ∧ (Instr.stsShort 0 16).wf = true := by decide
theorem test_wf_mid : (Instr.fmul 24 16).wf = false ∧ (Instr.fmul 23 15).wf = false ∧
    (Instr.fmul 23 16).wf = true := by decide
theorem test_wf_pairHigh : (Instr.adiw 25 0).wf = false ∧ (Instr.sbiw 22 0).wf = false ∧
    (Instr.sbiw 30 0).wf = true := by decide
theorem test_wf_even : (Instr.movw 1 0).wf = false ∧ (Instr.movw 0 31).wf = false ∧
    (Instr.movw 30 0).wf = true := by decide

/-! Decoding: words from the encodings and examples of 40 … 44. An alias's word decodes to its base (R111). -/

/-- The instruction a word stands for on a classic core. -/
def classic (w : Word) (w2 : Word := 0) : Option Instr := decode .classic w w2

theorem test_decode_arithmetic :
    classic 0x0F01 = some (.add 16 17) ∧ classic 0x1F01 = some (.adc 16 17) ∧ classic 0x96DF = some (.adiw 26 63) ∧
    classic 0x1B01 = some (.sub 16 17) ∧ classic 0x5F4F = some (.subi 20 0xFF) ∧ classic 0x0B01 = some (.sbc 16 17) ∧
    classic 0x4112 = some (.sbci 17 0x12) ∧ classic 0x9721 = some (.sbiw 28 1) ∧ classic 0x9500 = some (.com 16) ∧
    classic 0x9501 = some (.neg 16) ∧ classic 0x9503 = some (.inc 16) ∧ classic 0x950A = some (.dec 16) := by
  decide +kernel

theorem test_decode_logic :
    classic 0x2301 = some (.and 16 17) ∧ classic 0x700F = some (.andi 16 0x0F) ∧ classic 0x2B01 = some (.or 16 17) ∧
    classic 0x6821 = some (.ori 18 0x81) ∧ classic 0x2701 = some (.eor 16 17) ∧
    classic 0x6003 = some ((Instr.sbr 16 0x03).base .classic) ∧
    classic 0x700F = some ((Instr.cbr 16 0xF0).base .classic) ∧
    classic 0x2300 = some ((Instr.tst 16).base .classic) ∧ classic 0x2411 = some ((Instr.clr 1).base .classic) ∧
    classic 0xEF0F = some ((Instr.ser 16).base .classic) := by
  decide +kernel

theorem test_decode_multiply :
    classic 0x9F01 = some (.mul 16 17) ∧ classic 0x0201 = some (.muls 16 17) ∧ classic 0x0301 = some (.mulsu 16 17) ∧
    classic 0x0309 = some (.fmul 16 17) ∧ classic 0x0381 = some (.fmuls 16 17) ∧
    classic 0x0389 = some (.fmulsu 16 17) := by
  decide +kernel

theorem test_decode_jumps :
    classic 0xCFFD = some (.rjmp (-3)) ∧ classic 0x9409 = some .ijmp ∧ classic 0x9419 = some .eijmp ∧
    classic 0x941C 0x0000 = some (.jmp 0x20000) ∧ classic 0xD010 = some (.rcall 16) ∧ classic 0x9509 = some .icall ∧
    classic 0x9519 = some .eicall ∧ classic 0x940E 0x0100 = some (.call 0x0100) ∧ classic 0x9508 = some .ret ∧
    classic 0x9518 = some .reti := by
  decide +kernel

theorem test_decode_compares_and_skips :
    classic 0x1301 = some (.cpse 16 17) ∧ classic 0x1701 = some (.cp 16 17) ∧ classic 0x0713 = some (.cpc 17 19) ∧
    classic 0x3100 = some (.cpi 16 0x10) ∧ classic 0xFC07 = some (.sbrc 0 7) ∧ classic 0xFFF0 = some (.sbrs 31 0) ∧
    classic 0x99E1 = some (.sbic 0x1C 1) ∧ classic 0x9BFF = some (.sbis 31 7) := by
  decide +kernel

theorem test_decode_branches :
    classic 0xF029 = some (.brbs 1 5) ∧ classic 0xF600 = some (.brbc 0 (-64)) ∧
    classic 0xF019 = some ((Instr.breq 3).base .classic) ∧ classic 0xF7F1 = some ((Instr.brne (-2)).base .classic) ∧
    classic 0xF018 = some ((Instr.brcs 3).base .classic) ∧ classic 0xF418 = some ((Instr.brcc 3).base .classic) ∧
    classic 0xF418 = some ((Instr.brsh 3).base .classic) ∧ classic 0xF3F0 = some ((Instr.brlo (-2)).base .classic) ∧
    classic 0xF01A = some ((Instr.brmi 3).base .classic) ∧ classic 0xF41A = some ((Instr.brpl 3).base .classic) ∧
    classic 0xF41C = some ((Instr.brge 3).base .classic) ∧ classic 0xF01C = some ((Instr.brlt 3).base .classic) ∧
    classic 0xF01D = some ((Instr.brhs 3).base .classic) ∧ classic 0xF41D = some ((Instr.brhc 3).base .classic) ∧
    classic 0xF01E = some ((Instr.brts 3).base .classic) ∧ classic 0xF41E = some ((Instr.brtc 3).base .classic) ∧
    classic 0xF01B = some ((Instr.brvs 3).base .classic) ∧ classic 0xF41B = some ((Instr.brvc 3).base .classic) ∧
    classic 0xF01F = some ((Instr.brie 3).base .classic) ∧ classic 0xF41F = some ((Instr.brid 3).base .classic) := by
  decide +kernel

theorem test_decode_moves_and_loads :
    classic 0x2FF0 = some (.mov 31 16) ∧ classic 0x01CF = some (.movw 24 30) ∧ classic 0xEA05 = some (.ldi 16 0xA5) ∧
    classic 0x9010 0x005F = some (.lds 1 0x005F) ∧ classic 0x901C = some (.ldX 1) ∧ classic 0x900D = some (.ldXInc 0) ∧
    classic 0x900E = some (.ldXDec 0) ∧ classic 0x8028 = some ((Instr.ldY 2).base .classic) ∧
    classic 0x9029 = some (.ldYInc 2) ∧ classic 0x902A = some (.ldYDec 2) ∧ classic 0xADFF = some (.lddY 31 63) ∧
    classic 0x8020 = some ((Instr.ldZ 2).base .classic) ∧ classic 0x9021 = some (.ldZInc 2) ∧
    classic 0x9022 = some (.ldZDec 2) ∧ classic 0xA020 = some (.lddZ 2 32) := by
  decide +kernel

theorem test_decode_stores :
    classic 0x93F0 0x085F = some (.sts 0x085F 31) ∧ classic 0x920C = some (.stX 0) ∧ classic 0x920D = some (.stXInc 0) ∧
    classic 0x920E = some (.stXDec 0) ∧ classic 0x8238 = some ((Instr.stY 3).base .classic) ∧
    classic 0x9239 = some (.stYInc 3) ∧ classic 0x923A = some (.stYDec 3) ∧ classic 0xAFFF = some (.stdY 63 31) ∧
    classic 0x8230 = some ((Instr.stZ 3).base .classic) ∧ classic 0x9231 = some (.stZInc 3) ∧
    classic 0x9232 = some (.stZDec 3) ∧ classic 0x8205 = some (.stdZ 5 0) := by
  decide +kernel

theorem test_decode_program_io_and_stack :
    classic 0x95C8 = some .lpm ∧ classic 0x9114 = some (.lpmZ 17) ∧ classic 0x9105 = some (.lpmZInc 16) ∧
    classic 0x95D8 = some .elpm ∧ classic 0x9056 = some (.elpmZ 5) ∧ classic 0x9057 = some (.elpmZInc 5) ∧
    classic 0x95E8 = some .spm ∧ classic 0x95F8 = some .spmZInc ∧ classic 0xB61F = some (.inp 1 0x3F) ∧
    classic 0xBF0E = some (.out 0x3E 16) ∧ classic 0x93FF = some (.push 31) ∧ classic 0x911F = some (.pop 17) ∧
    classic 0x9304 = some (.xch 16) := by
  decide +kernel

theorem test_decode_shifts_and_bits :
    classic 0x0F00 = some ((Instr.lsl 16).base .classic) ∧ classic 0x9506 = some (.lsr 16) ∧
    classic 0x1F00 = some ((Instr.rol 16).base .classic) ∧ classic 0x9507 = some (.ror 16) ∧
    classic 0x9505 = some (.asr 16) ∧ classic 0x9502 = some (.swap 16) ∧ classic 0x9448 = some (.bset 4) ∧
    classic 0x94C8 = some (.bclr 4) ∧ classic 0x9AE2 = some (.sbi 0x1C 2) ∧ classic 0x98FF = some (.cbi 31 7) ∧
    classic 0xFB03 = some (.bst 16 3) ∧ classic 0xF915 = some (.bld 17 5) := by
  decide +kernel

theorem test_decode_flags :
    classic 0x9408 = some (Instr.sec.base .classic) ∧ classic 0x9488 = some (Instr.clc.base .classic) ∧
    classic 0x9428 = some (Instr.sen.base .classic) ∧ classic 0x94A8 = some (Instr.cln.base .classic) ∧
    classic 0x9418 = some (Instr.sez.base .classic) ∧ classic 0x9498 = some (Instr.clz.base .classic) ∧
    classic 0x9478 = some (Instr.sei.base .classic) ∧ classic 0x94F8 = some (Instr.cli.base .classic) ∧
    classic 0x9448 = some (Instr.ses.base .classic) ∧ classic 0x94C8 = some (Instr.cls.base .classic) ∧
    classic 0x9438 = some (Instr.sev.base .classic) ∧ classic 0x94B8 = some (Instr.clv.base .classic) ∧
    classic 0x9468 = some (Instr.setT.base .classic) ∧ classic 0x94E8 = some (Instr.clt.base .classic) ∧
    classic 0x9458 = some (Instr.seh.base .classic) ∧ classic 0x94D8 = some (Instr.clh.base .classic) := by
  decide +kernel

theorem test_decode_control :
    classic 0x9598 = some .brk ∧ classic 0x0000 = some .nop ∧ classic 0x9588 = some .sleep ∧
    classic 0x95A8 = some .wdr := by
  decide +kernel

/-- The words `1000 …` and `1010 …` on a reduced core (R117). -/
theorem test_decode_reduced_core :
    decode .reduced 0xA100 0 = some (.ldsShort 16 0x10) ∧ decode .reduced 0xA8F0 0 = some (.stsShort 0x00 31) ∧
    decode .reduced 0xAFFF 0 = some (.stsShort 0x7F 31) ∧ decode .reduced 0x8028 0 = some (.ldY 2) ∧
    decode .reduced 0x8020 0 = some (.ldZ 2) ∧ decode .reduced 0x8238 0 = some (.stY 3) ∧
    decode .reduced 0x8230 0 = some (.stZ 3) ∧ decode .reduced 0x802D 0 = none := by
  decide +kernel

/-- 95_test_vectors.md B6. -/
theorem test_decode_rejects :
    ([0x0001, 0x00FF, 0xFFFF, 0xF808, 0xFC08, 0x9404, 0x940B, 0x9528, 0x95B8, 0x9205, 0x9206, 0x9207, 0x9003, 0x9008,
      0x900B, 0x9203, 0x9208, 0x920B].all fun w => (classic w).isNone) = true ∧
    ([Instr.spmZInc, .eijmp, .eicall, .elpm, .elpmZ 0, .elpmZInc 0, .xch 0].all fun i =>
      !Device.atmega32.admits i) = true := by
  decide +kernel

/-! One step from a small state of the ATmega32. -/

/-- The reset state with a program from `pc` on, general registers, SREG, SP and bytes of SRAM. -/
def before (words : List Word) (regs : List (Reg × Byte)) (sreg : Byte) (pc : PcAddr := 0) (sp : Word := 0)
    (ram : Memory := []) (data : List (Nat × Word) := []) : State :=
  let s := regs.foldl (fun s x => s.setReg x.1 x.2)
    { State.reset with sreg := sreg, pc := pc, sp := sp, sram := ram.foldl (fun m c => Memory.put m c.1 c.2) [] }
  let s := data.foldl (fun s x => s.putProgWord x.1 x.2) s
  (words.foldl (fun (p : Nat × State) w => (p.1 + 1, p.2.putProgWord p.1 w)) (pc.toNat, s)).2

/-- The state an outcome goes on with. -/
def nextOf (o : Host.Outcome State Fault Refusal) : Option State :=
  match o with
  | .next t => some t
  | _ => none

/-- Whether an outcome goes on with a state of which `p` holds. -/
def goesOn (o : Host.Outcome State Fault Refusal) (p : State → Bool) : Bool := (nextOf o).any p

/-- Whether an outcome is this refusal. -/
def refuses (o : Host.Outcome State Fault Refusal) (r : Refusal) : Bool :=
  match o with
  | .refused q => q == r
  | _ => false

/-- Whether an outcome is this fault. -/
def faults (o : Host.Outcome State Fault Refusal) (f : Fault) : Bool :=
  match o with
  | .fault g => g == f
  | _ => false

/-- Whether one step from `before …` goes on with these registers, SREG, pc, SP and bytes of SRAM. -/
def runs (words : List Word) (regs : List (Reg × Byte)) (sreg : Byte) (regs' : List (Reg × Byte)) (sreg' : Byte)
    (pc' : PcAddr) (pc : PcAddr := 0) (sp : Word := 0) (sp' : Word := 0) (ram ram' : Memory := [])
    (data : List (Nat × Word) := []) : Bool :=
  goesOn (step (before words regs sreg pc sp ram data)) fun t =>
    regs'.all (fun x => t.reg x.1 == x.2) && t.sreg == sreg' && t.pc == pc' && t.sp == sp' &&
      ram'.all (fun c => Memory.get? t.sram c.1 == some c.2)

/-- B1. -/
theorem test_add_adc_adiw :
    (runs [0x0F01] [(16, 0x7F), (17, 0x01)] 0x00 [(16, 0x80)] 0x2C 0x0001 &&
     runs [0x0F01] [(16, 0xFF), (17, 0x01)] 0x00 [(16, 0x00)] 0x23 0x0001 &&
     runs [0x1F01] [(16, 0xFF), (17, 0x00)] 0x01 [(16, 0x00)] 0x23 0x0001 &&
     runs [0x1F01] [(16, 0x0F), (17, 0x00)] 0x01 [(16, 0x10)] 0x20 0x0001 &&
     runs [0x9601] [(24, 0xFF), (25, 0xFF)] 0x00 [(24, 0x00), (25, 0x00)] 0x03 0x0001 &&
     runs [0x96DF] [(26, 0xC1), (27, 0x7F)] 0x00 [(26, 0x00), (27, 0x80)] 0x0C 0x0001) = true := by decide +kernel

/-- B1: SBC and SBCI keep Z clear on a zero result. -/
theorem test_sub_subi_sbc_sbci_sbiw :
    (runs [0x1B01] [(16, 0x00), (17, 0x01)] 0x00 [(16, 0xFF)] 0x35 0x0001 &&
     runs [0x1B01] [(16, 0x80), (17, 0x01)] 0x00 [(16, 0x7F)] 0x38 0x0001 &&
     runs [0x5100] [(16, 0x10)] 0x00 [(16, 0x00)] 0x02 0x0001 &&
     runs [0x5FFF] [(31, 0x00)] 0x00 [(31, 0x01)] 0x21 0x0001 &&
     runs [0x0B01] [(16, 0x00), (17, 0x00)] 0x02 [(16, 0x00), (17, 0x00)] 0x02 0x0001 &&
     runs [0x0B01] [(16, 0x00), (17, 0x00)] 0x00 [(16, 0x00), (17, 0x00)] 0x00 0x0001 &&
     runs [0x4010] [(17, 0x01)] 0x03 [(17, 0x00)] 0x02 0x0001 &&
     runs [0x4010] [(17, 0x00)] 0x00 [(17, 0x00)] 0x00 0x0001 &&
     runs [0x9701] [(24, 0x00), (25, 0x00)] 0x00 [(24, 0xFF), (25, 0xFF)] 0x15 0x0001 &&
     runs [0x9731] [(30, 0x00), (31, 0x80)] 0x00 [(30, 0xFF), (31, 0x7F)] 0x18 0x0001) = true := by decide +kernel

/-- B1. -/
theorem test_and_or_eor_immediate :
    (runs [0x2012] [(1, 0xF0), (2, 0x8F)] 0x09 [(1, 0x80)] 0x15 0x0001 &&
     runs [0x700F] [(16, 0xF0)] 0x01 [(16, 0x00)] 0x03 0x0001 &&
     runs [0x2812] [(1, 0x80), (2, 0x01)] 0x00 [(1, 0x81)] 0x14 0x0001 &&
     runs [0x6000] [(16, 0x00)] 0x08 [(16, 0x00)] 0x02 0x0001 &&
     runs [0x2412] [(1, 0xAA), (2, 0xFF)] 0x00 [(1, 0x55)] 0x00 0x0001 &&
     runs [0x6801] [(16, 0x02)] 0x00 [(16, 0x83)] 0x14 0x0001 &&
     runs [0x7F00] [(16, 0xFF)] 0x00 [(16, 0xF0)] 0x14 0x0001) = true := by decide +kernel

/-- B1: INC and DEC keep C. -/
theorem test_com_neg_inc_dec :
    (runs [0x9500] [(16, 0x00)] 0x00 [(16, 0xFF)] 0x15 0x0001 &&
     runs [0x9500] [(16, 0xFF)] 0x00 [(16, 0x00)] 0x03 0x0001 &&
     runs [0x9501] [(16, 0x80)] 0x00 [(16, 0x80)] 0x0D 0x0001 &&
     runs [0x9501] [(16, 0x00)] 0x01 [(16, 0x00)] 0x02 0x0001 &&
     runs [0x9503] [(16, 0x7F)] 0x01 [(16, 0x80)] 0x0D 0x0001 &&
     runs [0x9503] [(16, 0xFF)] 0x00 [(16, 0x00)] 0x02 0x0001 &&
     runs [0x950A] [(16, 0x80)] 0x01 [(16, 0x7F)] 0x19 0x0001 &&
     runs [0x950A] [(16, 0x01)] 0x00 [(16, 0x00)] 0x02 0x0001) = true := by decide +kernel

/-- B1. -/
theorem test_tst_clr_ser :
    (runs [0x2300] [(16, 0x80)] 0x09 [(16, 0x80)] 0x15 0x0001 &&
     runs [0x2300] [(16, 0x00)] 0x00 [(16, 0x00)] 0x02 0x0001 &&
     runs [0x2411] [(1, 0x55)] 0x1D [(1, 0x00)] 0x03 0x0001 &&
     runs [0xEF0F] [] 0xFF [(16, 0xFF)] 0xFF 0x0001) = true := by decide +kernel

/-- B1. -/
theorem test_mul_muls_mulsu :
    (runs [0x9F01] [(16, 0xFF), (17, 0xFF)] 0x00 [(0, 0x01), (1, 0xFE)] 0x01 0x0001 &&
     runs [0x9F01] [(16, 0x00), (17, 0xFF)] 0x01 [(0, 0x00), (1, 0x00)] 0x02 0x0001 &&
     runs [0x0201] [(16, 0xFF), (17, 0xFF)] 0x00 [(0, 0x01), (1, 0x00)] 0x00 0x0001 &&
     runs [0x0201] [(16, 0x80), (17, 0x7F)] 0x00 [(0, 0x80), (1, 0xC0)] 0x01 0x0001 &&
     runs [0x0301] [(16, 0xFF), (17, 0xFF)] 0x00 [(0, 0x01), (1, 0xFF)] 0x01 0x0001 &&
     runs [0x0301] [(16, 0x7F), (17, 0xFF)] 0x00 [(0, 0x81), (1, 0x7E)] 0x00 0x0001) = true := by decide +kernel

/-- B1. -/
theorem test_fmul_fmuls_fmulsu :
    (runs [0x0309] [(16, 0x80), (17, 0x80)] 0x00 [(0, 0x00), (1, 0x80)] 0x00 0x0001 &&
     runs [0x0309] [(16, 0xFF), (17, 0xFF)] 0x00 [(0, 0x02), (1, 0xFC)] 0x01 0x0001 &&
     runs [0x0381] [(16, 0x80), (17, 0x80)] 0x00 [(0, 0x00), (1, 0x80)] 0x00 0x0001 &&
     runs [0x0381] [(16, 0x40), (17, 0xC0)] 0x00 [(0, 0x00), (1, 0xE0)] 0x01 0x0001 &&
     runs [0x0389] [(16, 0x80), (17, 0xFF)] 0x00 [(0, 0x00), (1, 0x01)] 0x01 0x0001 &&
     runs [0x0389] [(16, 0x40), (17, 0x80)] 0x00 [(0, 0x00), (1, 0x40)] 0x00 0x0001) = true := by decide +kernel

/-- B2. -/
theorem test_rjmp_ijmp_jmp :
    (runs [0xC005] [] 0x00 [] 0x00 0x0106 (pc := 0x0100) &&
     runs [0xCFFF] [] 0x00 [] 0x00 0x0020 (pc := 0x0020) &&
     runs [0x9409] [(30, 0x34), (31, 0x12)] 0x00 [(30, 0x34), (31, 0x12)] 0x00 0x1234 &&
     runs [0x940C, 0x3FFF] [] 0x00 [] 0x00 0x3FFF) = true := by decide +kernel

/-- B2: the return address lies low byte at the higher address. -/
theorem test_rcall_icall_call_ret_reti :
    (runs [0xD002] [] 0x00 [] 0x00 0x0013
       (pc := 0x0010) (sp := 0x085F) (sp' := 0x085D) (ram' := [(0x085E, 0x00), (0x085F, 0x11)]) &&
     runs [0xD800] [] 0x00 [] 0x00 0x0001
       (pc := 0x0800) (sp := 0x085F) (sp' := 0x085D) (ram' := [(0x085E, 0x08), (0x085F, 0x01)]) &&
     runs [0x9509] [(30, 0x00), (31, 0x02)] 0x00 [(30, 0x00), (31, 0x02)] 0x00 0x0200
       (pc := 0x00FF) (sp := 0x085F) (sp' := 0x085D) (ram' := [(0x085E, 0x01), (0x085F, 0x00)]) &&
     runs [0x940E, 0x0123] [] 0x00 [] 0x00 0x0123
       (pc := 0x1234) (sp := 0x085F) (sp' := 0x085D) (ram' := [(0x085E, 0x12), (0x085F, 0x36)]) &&
     runs [0x9508] [] 0x00 [] 0x00 0x1236
       (sp := 0x085D) (ram := [(0x085E, 0x12), (0x085F, 0x36)]) (sp' := 0x085F) &&
     runs [0x9518] [] 0x03 [] 0x83 0x0021
       (sp := 0x085D) (ram := [(0x085E, 0x00), (0x085F, 0x21)]) (sp' := 0x085F)) = true := by decide +kernel

/-- B2. -/
theorem test_cp_cpc_cpi :
    (runs [0x1701] [(16, 0x10), (17, 0x20)] 0x00 [(16, 0x10), (17, 0x20)] 0x15 0x0001 &&
     runs [0x1701] [(16, 0x80), (17, 0x7F)] 0x00 [(16, 0x80), (17, 0x7F)] 0x38 0x0001 &&
     runs [0x0713] [(17, 0x12), (19, 0x12)] 0x02 [(17, 0x12), (19, 0x12)] 0x02 0x0001 &&
     runs [0x0713] [(17, 0x12), (19, 0x12)] 0x00 [(17, 0x12), (19, 0x12)] 0x00 0x0001 &&
     runs [0x3800] [(16, 0x80)] 0x00 [(16, 0x80)] 0x02 0x0001 &&
     runs [0x3F0F] [(16, 0x00)] 0x00 [(16, 0x00)] 0x21 0x0001) = true := by decide +kernel

/-- B2: one word and two words skipped. -/
theorem test_cpse_sbrc_sbrs :
    (runs [0x1001, 0x0000] [(0, 0x05), (1, 0x05)] 0x00 [(0, 0x05), (1, 0x05)] 0x00 0x0002 &&
     runs [0x1001, 0x940C] [(0, 0x05), (1, 0x05)] 0x00 [(0, 0x05), (1, 0x05)] 0x00 0x0003 &&
     runs [0xFD07, 0x9200] [(16, 0x7F)] 0x00 [(16, 0x7F)] 0x00 0x0003 &&
     runs [0xFD07, 0x9200] [(16, 0x80)] 0x00 [(16, 0x80)] 0x00 0x0001 &&
     runs [0xFE00, 0x0000] [(0, 0x01)] 0x00 [(0, 0x01)] 0x00 0x0002 &&
     runs [0xFE00, 0x0000] [(0, 0xFE)] 0x00 [(0, 0xFE)] 0x00 0x0001) = true := by decide +kernel

/-- B2. -/
theorem test_brbs_brbc :
    (runs [0xF019] [] 0x02 [] 0x02 0x0044 (pc := 0x0040) &&
     runs [0xF019] [] 0xFD [] 0xFD 0x0041 (pc := 0x0040) &&
     runs [0xF600] [] 0x00 [] 0x00 0x0001 (pc := 0x0040) &&
     runs [0xF5F8] [] 0x00 [] 0x00 0x0080 (pc := 0x0040)) = true := by decide +kernel

/-- B2, taken and not taken. -/
theorem test_branches_on_zero_and_carry :
    (runs [0xF3E9] [] 0x02 [] 0x02 0x003E (pc := 0x0040) &&
     runs [0xF3E9] [] 0x00 [] 0x00 0x0041 (pc := 0x0040) &&
     runs [0xF7E9] [] 0x00 [] 0x00 0x003E (pc := 0x0040) &&
     runs [0xF7E9] [] 0x02 [] 0x02 0x0041 (pc := 0x0040) &&
     runs [0xF008] [] 0x01 [] 0x01 0x0042 (pc := 0x0040) &&
     runs [0xF008] [] 0x00 [] 0x00 0x0041 (pc := 0x0040) &&
     runs [0xF408] [] 0x00 [] 0x00 0x0042 (pc := 0x0040) &&
     runs [0xF408] [] 0x01 [] 0x01 0x0041 (pc := 0x0040) &&
     runs [0xF408] [] 0x00 [] 0x00 0x0042 (pc := 0x0040) &&
     runs [0xF408] [] 0x01 [] 0x01 0x0041 (pc := 0x0040) &&
     runs [0xF008] [] 0x01 [] 0x01 0x0042 (pc := 0x0040) &&
     runs [0xF008] [] 0x00 [] 0x00 0x0041 (pc := 0x0040)) = true := by decide +kernel

/-- B2, taken and not taken. -/
theorem test_branches_on_sign :
    (runs [0xF012] [] 0x04 [] 0x04 0x0043 (pc := 0x0040) &&
     runs [0xF012] [] 0x00 [] 0x00 0x0041 (pc := 0x0040) &&
     runs [0xF412] [] 0x00 [] 0x00 0x0043 (pc := 0x0040) &&
     runs [0xF412] [] 0x04 [] 0x04 0x0041 (pc := 0x0040) &&
     runs [0xF424] [] 0x00 [] 0x00 0x0045 (pc := 0x0040) &&
     runs [0xF424] [] 0x10 [] 0x10 0x0041 (pc := 0x0040) &&
     runs [0xF024] [] 0x10 [] 0x10 0x0045 (pc := 0x0040) &&
     runs [0xF024] [] 0x00 [] 0x00 0x0041 (pc := 0x0040) &&
     runs [0xF01B] [] 0x08 [] 0x08 0x0044 (pc := 0x0040) &&
     runs [0xF01B] [] 0x00 [] 0x00 0x0041 (pc := 0x0040) &&
     runs [0xF41B] [] 0x00 [] 0x00 0x0044 (pc := 0x0040) &&
     runs [0xF41B] [] 0x08 [] 0x08 0x0041 (pc := 0x0040)) = true := by decide +kernel

/-- B2, taken and not taken. -/
theorem test_branches_on_h_t_i :
    (runs [0xF02D] [] 0x20 [] 0x20 0x0046 (pc := 0x0040) &&
     runs [0xF02D] [] 0x00 [] 0x00 0x0041 (pc := 0x0040) &&
     runs [0xF42D] [] 0x00 [] 0x00 0x0046 (pc := 0x0040) &&
     runs [0xF42D] [] 0x20 [] 0x20 0x0041 (pc := 0x0040) &&
     runs [0xF036] [] 0x40 [] 0x40 0x0047 (pc := 0x0040) &&
     runs [0xF036] [] 0x00 [] 0x00 0x0041 (pc := 0x0040) &&
     runs [0xF436] [] 0x00 [] 0x00 0x0047 (pc := 0x0040) &&
     runs [0xF436] [] 0x40 [] 0x40 0x0041 (pc := 0x0040) &&
     runs [0xF03F] [] 0x80 [] 0x80 0x0048 (pc := 0x0040) &&
     runs [0xF03F] [] 0x00 [] 0x00 0x0041 (pc := 0x0040) &&
     runs [0xF43F] [] 0x00 [] 0x00 0x0048 (pc := 0x0040) &&
     runs [0xF43F] [] 0x80 [] 0x80 0x0041 (pc := 0x0040)) = true := by decide +kernel

/-- B3. -/
theorem test_mov_movw_ldi :
    (runs [0x2C10] [(0, 0x3C)] 0xFF [(1, 0x3C)] 0xFF 0x0001 &&
     runs [0x2C77] [(7, 0x11)] 0x00 [(7, 0x11)] 0x00 0x0001 &&
     runs [0x01CF] [(30, 0x34), (31, 0x12)] 0x00 [(24, 0x34), (25, 0x12)] 0x00 0x0001 &&
     runs [0x0100] [(0, 0xAA), (1, 0xBB)] 0x00 [(0, 0xAA), (1, 0xBB)] 0x00 0x0001 &&
     runs [0xEA05] [] 0xFF [(16, 0xA5)] 0xFF 0x0001 &&
     runs [0xE0F0] [] 0x00 [(31, 0x00)] 0x00 0x0001) = true := by decide +kernel

/-- B3: SRAM, SREG and a general register by data address. -/
theorem test_lds_sts :
    (runs [0x9000, 0x0060] [] 0x00 [(0, 0x99)] 0x00 0x0002 (ram := [(0x0060, 0x99)]) &&
     runs [0x9010, 0x005F] [] 0xA5 [(1, 0xA5)] 0xA5 0x0002 &&
     runs [0x9300, 0x085F] [(16, 0x42)] 0x00 [(16, 0x42)] 0x00 0x0002 (ram' := [(0x085F, 0x42)]) &&
     runs [0x9300, 0x005F] [(16, 0x81)] 0x00 [(16, 0x81)] 0x81 0x0002) = true := by decide +kernel

/-- B3. -/
theorem test_loads_through_pointers :
    (runs [0x901C] [(26, 0x00), (27, 0x00), (0, 0x3C)] 0x00 [(1, 0x3C)] 0x00 0x0001 &&
     runs [0x900D] [(26, 0x60), (27, 0x00)] 0x00 [(0, 0x11), (26, 0x61)] 0x00 0x0001 (ram := [(0x0060, 0x11)]) &&
     runs [0x900D] [(26, 0xFF), (27, 0x00)] 0x00 [(0, 0x22), (26, 0x00), (27, 0x01)] 0x00 0x0001
       (ram := [(0x00FF, 0x22)]) &&
     runs [0x900E] [(26, 0x63), (27, 0x00)] 0x00 [(0, 0x33), (26, 0x62)] 0x00 0x0001 (ram := [(0x0062, 0x33)]) &&
     runs [0x8058] [(28, 0x00), (29, 0x01)] 0x00 [(5, 0x44)] 0x00 0x0001 (ram := [(0x0100, 0x44)]) &&
     runs [0x9059] [(28, 0xFF), (29, 0x00)] 0x00 [(5, 0x55), (28, 0x00), (29, 0x01)] 0x00 0x0001
       (ram := [(0x00FF, 0x55)]) &&
     runs [0x905A] [(28, 0x00), (29, 0x01)] 0x00 [(5, 0x55), (28, 0xFF), (29, 0x00)] 0x00 0x0001
       (ram := [(0x00FF, 0x55)]) &&
     runs [0xAC5F] [(28, 0x00), (29, 0x01)] 0x00 [(5, 0x66)] 0x00 0x0001 (ram := [(0x013F, 0x66)]) &&
     runs [0x8050] [(30, 0x5F), (31, 0x00)] 0x80 [(5, 0x80)] 0x80 0x0001 &&
     runs [0x9051] [(30, 0x60), (31, 0x00)] 0x00 [(5, 0x77), (30, 0x61)] 0x00 0x0001 (ram := [(0x0060, 0x77)]) &&
     runs [0x8055] [(30, 0x60), (31, 0x00)] 0x00 [(5, 0x88)] 0x00 0x0001 (ram := [(0x0065, 0x88)])) = true :=
  by decide +kernel

/-- B3. -/
theorem test_stores_through_pointers :
    (runs [0x920C] [(26, 0x62), (27, 0x00), (0, 0xAB)] 0x00 [(26, 0x62), (27, 0x00), (0, 0xAB)] 0x00 0x0001
       (ram' := [(0x0062, 0xAB)]) &&
     runs [0x920D] [(26, 0x5F), (27, 0x08), (0, 0xAB)] 0x00 [(26, 0x60)] 0x00 0x0001 (ram' := [(0x085F, 0xAB)]) &&
     runs [0x920E] [(26, 0x00), (27, 0x01), (0, 0xAB)] 0x00 [(26, 0xFF), (27, 0x00)] 0x00 0x0001
       (ram' := [(0x00FF, 0xAB)]) &&
     runs [0x8218] [(28, 0x10), (29, 0x00), (1, 0xCD)] 0x00 [(16, 0xCD)] 0x00 0x0001 &&
     runs [0x9219] [(28, 0x60), (29, 0x00), (1, 0xCD)] 0x00 [(28, 0x61)] 0x00 0x0001 (ram' := [(0x0060, 0xCD)]) &&
     runs [0x921A] [(28, 0x60), (29, 0x08), (1, 0xCD)] 0x00 [(28, 0x5F)] 0x00 0x0001 (ram' := [(0x085F, 0xCD)]) &&
     runs [0x8219] [(28, 0x5E), (29, 0x08), (1, 0xCD)] 0x00 [(28, 0x5E), (29, 0x08), (1, 0xCD)] 0x00 0x0001
       (ram' := [(0x085F, 0xCD)]) &&
     runs [0x8220] [(30, 0x5D), (31, 0x00), (2, 0x5F)] 0x00 [(30, 0x5D), (31, 0x00), (2, 0x5F)] 0x00 0x0001
       (sp := 0x0800) (sp' := 0x085F) &&
     runs [0x9221] [(30, 0x60), (31, 0x00), (2, 0xEF)] 0x00 [(30, 0x61)] 0x00 0x0001 (ram' := [(0x0060, 0xEF)]) &&
     runs [0x9222] [(30, 0x61), (31, 0x00), (2, 0xEF)] 0x00 [(30, 0x60)] 0x00 0x0001 (ram' := [(0x0060, 0xEF)]) &&
     runs [0x8205] [(30, 0x60), (31, 0x00), (0, 0xAB)] 0x00 [(30, 0x60), (31, 0x00), (0, 0xAB)] 0x00 0x0001
       (ram' := [(0x0065, 0xAB)]) &&
     runs [0xAE07] [(30, 0x00), (31, 0x08), (0, 0xAB)] 0x00 [(30, 0x00), (31, 0x08), (0, 0xAB)] 0x00 0x0001
       (ram' := [(0x083F, 0xAB)])) = true := by decide +kernel

/-- B3. -/
theorem test_lpm :
    (runs [0x95C8] [(30, 0x01), (31, 0x02)] 0x00 [(0, 0x12)] 0x00 0x0001 (data := [(0x0100, 0x1234)]) &&
     runs [0x95C8] [(30, 0x00), (31, 0x00)] 0x00 [(0, 0xC8)] 0x00 0x0001 &&
     runs [0x9104] [(30, 0x00), (31, 0x02)] 0x00 [(16, 0x34)] 0x00 0x0001 (data := [(0x0100, 0x1234)]) &&
     runs [0x9105] [(30, 0xFF), (31, 0x01)] 0x00 [(16, 0xBE), (30, 0x00), (31, 0x02)] 0x00 0x0001
       (data := [(0x00FF, 0xBEEF)])) = true := by decide +kernel

/-- B3. -/
theorem test_in_out_push_pop :
    (runs [0xB61F] [] 0xA5 [(1, 0xA5)] 0xA5 0x0001 &&
     runs [0xB70D] [] 0x00 [(16, 0x5F)] 0x00 0x0001 (sp := 0x085F) (sp' := 0x085F) &&
     runs [0xBF0F] [(16, 0xFF)] 0x00 [(16, 0xFF)] 0xFF 0x0001 &&
     runs [0xBF0E] [(16, 0x04)] 0x00 [(16, 0x04)] 0x00 0x0001 (sp := 0x085F) (sp' := 0x045F) &&
     runs [0x930F] [(16, 0x42)] 0x00 [(16, 0x42)] 0x00 0x0001
       (sp := 0x085F) (sp' := 0x085E) (ram' := [(0x085F, 0x42)]) &&
     runs [0x930F] [(16, 0x42)] 0x00 [(16, 0x42)] 0x00 0x0001
       (sp := 0x0060) (sp' := 0x005F) (ram' := [(0x0060, 0x42)]) &&
     runs [0x911F] [] 0x00 [(17, 0x42)] 0x00 0x0001 (sp := 0x085E) (ram := [(0x085F, 0x42)]) (sp' := 0x085F)) = true :=
  by decide +kernel

/-- B4. -/
theorem test_shifts :
    (runs [0x0F00] [(16, 0x81)] 0x00 [(16, 0x02)] 0x19 0x0001 &&
     runs [0x0F00] [(16, 0x40)] 0x00 [(16, 0x80)] 0x0C 0x0001 &&
     runs [0x9506] [(16, 0x01)] 0x04 [(16, 0x00)] 0x1B 0x0001 &&
     runs [0x9506] [(16, 0x80)] 0x00 [(16, 0x40)] 0x00 0x0001 &&
     runs [0x1F00] [(16, 0x80)] 0x01 [(16, 0x01)] 0x19 0x0001 &&
     runs [0x1F00] [(16, 0x40)] 0x00 [(16, 0x80)] 0x0C 0x0001 &&
     runs [0x9507] [(16, 0x01)] 0x01 [(16, 0x80)] 0x15 0x0001 &&
     runs [0x9507] [(16, 0x00)] 0x00 [(16, 0x00)] 0x02 0x0001 &&
     runs [0x9505] [(16, 0x81)] 0x00 [(16, 0xC0)] 0x15 0x0001 &&
     runs [0x9505] [(16, 0x01)] 0x00 [(16, 0x00)] 0x1B 0x0001 &&
     runs [0x9502] [(16, 0xA5)] 0xFF [(16, 0x5A)] 0xFF 0x0001) = true := by decide +kernel

/-- B4. -/
theorem test_bit_copies :
    (runs [0x9468] [] 0x00 [] 0x40 0x0001 &&
     runs [0x94E8] [] 0xFF [] 0xBF 0x0001 &&
     runs [0xFB07] [(16, 0x80)] 0x00 [(16, 0x80)] 0x40 0x0001 &&
     runs [0xFB00] [(16, 0xFE)] 0xFF [(16, 0xFE)] 0xBF 0x0001 &&
     runs [0xF910] [(17, 0x00)] 0x40 [(17, 0x01)] 0x40 0x0001 &&
     runs [0xF917] [(17, 0xFF)] 0x00 [(17, 0x7F)] 0x00 0x0001) = true := by decide +kernel

/-- B4. -/
theorem test_flag_set :
    (runs [0x9408] [] 0x00 [] 0x01 0x0001 &&
     runs [0x9418] [] 0x00 [] 0x02 0x0001 &&
     runs [0x9428] [] 0x00 [] 0x04 0x0001 &&
     runs [0x9438] [] 0x00 [] 0x08 0x0001 &&
     runs [0x9448] [] 0x00 [] 0x10 0x0001 &&
     runs [0x9458] [] 0x00 [] 0x20 0x0001 &&
     runs [0x9468] [] 0x00 [] 0x40 0x0001 &&
     runs [0x9478] [] 0x00 [] 0x80 0x0001) = true := by decide +kernel

/-- B4. -/
theorem test_flag_clear :
    (runs [0x9488] [] 0xFF [] 0xFE 0x0001 &&
     runs [0x9498] [] 0xFF [] 0xFD 0x0001 &&
     runs [0x94A8] [] 0xFF [] 0xFB 0x0001 &&
     runs [0x94B8] [] 0xFF [] 0xF7 0x0001 &&
     runs [0x94C8] [] 0xFF [] 0xEF 0x0001 &&
     runs [0x94D8] [] 0xFF [] 0xDF 0x0001 &&
     runs [0x94E8] [] 0xFF [] 0xBF 0x0001 &&
     runs [0x94F8] [] 0xFF [] 0x7F 0x0001) = true := by decide +kernel

/-- B5. -/
theorem test_nop_wdr_break :
    (runs [0x0000] [] 0xA5 [] 0xA5 0x0011 (pc := 0x0010) &&
     runs [0x95A8] [] 0x00 [] 0x00 0x0006 (pc := 0x0005) &&
     runs [0x9598] [] 0x00 [] 0x00 0x0011 (pc := 0x0010)) = true := by decide +kernel

/-- B2, B3: the refusals and the fault. -/
theorem test_stops :
    refuses (step (before [0x940D, 0x0000] [] 0)) (.targetBeyondPc 0x10000) = true ∧
    refuses (step (before [0x9508] [] 0 (sp := 0x085F))) (.dataAddressBeyondRam 0x0860) = true ∧
    faults (step (before [0x9020, 0x0061] [] 0)) (.sramUnwritten 0x0061) = true ∧
    refuses (step (before [0x91AD] [(26, 0x60)] 0)) .dataRegisterInPointer = true ∧
    refuses (step (before [0x95C8] [(31, 0x80)] 0)) (.programReadBeyondFlash 0x8000) = true ∧
    faults (step (before [0x95D8] [] 0)) (.undecodable 0x95D8) = true ∧
    refuses (step (before [0x95E8] [] 0)) .spm = true := by
  decide +kernel

/-! Devices other than the ATmega32. -/

/-- A device of the 22-bit class with RAMPZ, EIND, XCH, SPM Z+ and three GPIORs. -/
def bigDevice : Device :=
  { Device.atmega32 with
    pcClass := .bits22, flashWords := 0x20000, ramEnd := 0x21FF, hasRampz := true, hasEind := true, hasXch := true
    hasSpmZPlus := true, gpiorAddrs := [0x13, 0x14, 0x15] }

theorem test_devices_consistent : Device.atmega32.wf = true ∧ bigDevice.wf = true := by decide +kernel

/-- A state of the big device. -/
def big (regs : List (Reg × Byte)) (sp : Word := 0x10FF) : State :=
  { before [] regs 0 with dev := bigDevice, sp := sp }

/-- The examples of R203 and R207. -/
theorem test_eijmp_eicall :
    goesOn (exec .eijmp { big [(30, 0x45), (31, 0x23)] with eind := 0x01 }) (fun t => t.pc == 0x012345) = true ∧
    goesOn (exec .eicall { big [(30, 0x45), (31, 0x23)] with eind := 0x01, pc := 0x40 }) (fun t =>
      t.pc == 0x012345 && t.sp == 0x10FC && t.sram == [(0x10FD, 0x00), (0x10FE, 0x00), (0x10FF, 0x41)]) = true := by
  decide +kernel

/-- The examples of R293, R294 and R295. -/
theorem test_elpm :
    goesOn (exec .elpm ({ big [(30, 0x01)] with rampz := 0x01 }.putProgWord 0x8000 0xBEEF)) (fun t =>
      t.reg 0 == 0xBE) = true ∧
    goesOn (exec (.elpmZ 5) ({ big [] with rampz := 0x01 }.putProgWord 0x8000 0xBEEF)) (fun t =>
      t.reg 5 == 0xEF) = true ∧
    goesOn (exec (.elpmZInc 5) ((big [(30, 0xFF), (31, 0xFF)]).putProgWord 0x7FFF 0xBEEF)) (fun t =>
      t.reg 5 == 0xBE && t.ptr .z == 0 && t.rampz == 0x01) = true := by
  decide +kernel

/-- The example and the corner case of R302. -/
theorem test_xch :
    goesOn (exec (.xch 16) { big [(16, 0x11), (30, 0x80)] with sram := [(0x80, 0x22)] }) (fun t =>
      t.reg 16 == 0x22 && t.sram == [(0x80, 0x11)]) = true ∧
    goesOn (exec (.xch 30) { big [(30, 0x80)] with sram := [(0x80, 0x22)] }) (fun t =>
      t.ptr .z == 0x0022 && t.sram == [(0x80, 0x80)]) = true := by
  decide +kernel

/-- The table of `addr7` in R265, and the examples of R265 and R278. -/
theorem test_short_lds_sts :
    ([(0x00, 0x80), (0x0F, 0x8F), (0x10, 0x40), (0x1F, 0x4F), (0x20, 0x90), (0x3F, 0x5F), (0x40, 0xA0), (0x5F, 0x6F),
      (0x60, 0xB0), (0x7F, 0x7F)].all fun (x : BitVec 7 × Word) => addr7 x.1 == x.2) = true ∧
    goesOn (exec (.ldsShort 16 0x00) { big [] with sram := [(0x80, 0x5A)] }) (fun t => t.reg 16 == 0x5A) = true ∧
    goesOn (exec (.stsShort 0x7F 31) (big [(31, 0x77)])) (fun t => t.sram == [(0x7F, 0x77)] && t.pc == 1) = true := by
  decide +kernel

/-- R44: GPIOR1 at 0x14. -/
theorem test_gpior :
    goesOn (exec (.sbi 0x14 3) (big [])) (fun t => t.gpior[1] == 0x08) = true ∧
    goesOn (exec (.cbi 0x14 0) { big [] with gpior := Vector.replicate 3 0xFF }) (fun t =>
      t.gpior[1] == 0xFE && t.gpior[0] == 0xFF) = true := by
  decide +kernel

/-- R391: BREAK where the device lacks it. -/
theorem test_break_absent :
    faults (step { before [0x9598] [] 0 with dev := { Device.atmega32 with hasBreak := false } })
      (.undecodable 0x9598) = true := by
  decide +kernel

/-! The EEPROM and the interrupts (95_test_vectors.md B4, B5, B7). -/

/-- The ATmega32 with a program at `pc`, EEAR 0x0123 and EEDR 0x5A, the stack at the end of SRAM. -/
def device (words : List Word) (regs : List (Reg × Byte) := []) (sreg : Byte := 0) (pc : PcAddr := 0) : State :=
  { before words regs sreg pc 0x085F with eear := 0x0123, eedr := 0x5A }

/-- A write in progress. -/
def writing (wait : Nat) : Option EeWrite := some { addr := 0x0123, data := 0xA7, wait := wait }

/-- A BREAK at pc where BREAK_MODE is stop, with a write in progress. -/
def stopping : State :=
  { device [0x9598] with dev := { Device.atmega32 with breakMode := .stop }, eeWrite := writing 1 }

/-- R391, R467: BREAK ends the run with pc at the BREAK, and the write in progress ends though I is set and EE_RDY is
pending then. -/
theorem test_break_stop :
    goesOn (step stopping) (fun t => t.halted && t.pc == 0 && t.busy && !t.final) = true ∧
    goesOn (step { stopping with halted := true, eeWrite := writing 0, sreg := 0x80, eerie := true }) (fun t =>
      t.final && t.pending 18 && t.pc == 0 && t.sp == 0x085F && t.eeprom == [(0x0123, 0xA7)]) = true := by
  decide +kernel

/-- R239, D2, D27: CPSE before a JMP whose first word is the last of program memory, on the ATmega32, where the word after it
is missing, and on a device with 2^16 words, where it is word 0. -/
theorem test_skip_second_word :
    refuses (step (device [0x1000, 0x940C] (pc := 0x3FFE))) (.skipBeyondFlash 0x4000) = true ∧
    goesOn (exec (.cpse 0 0) { device [] (pc := 0xFFFE) with
      dev := { Device.atmega32 with flashWords := 0x10000 }, flash := [(0x1FFFE, 0x0C), (0x1FFFF, 0x94)] }) (fun t =>
      t.pc == 0x0001) = true := by
  decide +kernel

/-- The ATmega32 with SRAM from 0x0100 (R7 `RAMSTART`). -/
def laterRam (regs : List (Reg × Byte)) (sp : Word) : State :=
  { before [] regs 0 with dev := { Device.atmega32 with ramStart := 0x0100 }, sp := sp }

/-- R48: no byte of SRAM lies below RAMSTART. -/
theorem test_ram_start :
    refuses (exec (.lds 0 0x0060) (laterRam [] 0x085F)) (.dataAddressBelowRam 0x0060) = true ∧
    refuses (exec (.push 0) (laterRam [] 0x00FF)) (.dataAddressBelowRam 0x00FF) = true ∧
    goesOn (exec (.push 0) (laterRam [(0, 7)] 0x0100)) (fun t => t.sram == [(0x0100, 7)]) = true := by
  decide +kernel

/-- A configuration of the flags (D1) in which ADD puts bit 0 of the result into C and keeps Z: 0xFF + 0x02 leaves C = 1,
Z as before, and the default N, H, V and S. -/
theorem test_flags_replaced :
    goesOn (exec (.add 16 17) { before [] [(16, 0xFF), (17, 0x02)] 0x02 with
      dev := { Device.atmega32 with flags := [⟨.add, .c, .res 0⟩, ⟨.add, .z, .old .z⟩, ⟨.sub, .h, .const true⟩] } })
      (fun t => t.reg 16 == 0x01 && t.sreg == 0x23) = true := by
  decide +kernel

/-- B2: SBIC and SBIS of EECR bit 1, while a write is in progress and while none is. -/
theorem test_sbic_sbis :
    goesOn (step (device [0x99E1, 0xCFFE])) (fun t => t.pc == 2) = true ∧
    goesOn (step { device [0x99E1, 0xCFFE] with eeWrite := writing 5 }) (fun t => t.pc == 1) = true ∧
    goesOn (step { device [0x9BE1, 0x9000] with eeWrite := writing 5 }) (fun t => t.pc == 3) = true ∧
    goesOn (step (device [0x9BE1, 0x9000])) (fun t => t.pc == 1) = true := by
  decide +kernel

/-- B4: SBI and CBI of EERIE, and the record of writes to undescribed registers. -/
theorem test_sbi_cbi :
    goesOn (step (device [0x9AE3])) (fun t => t.eerie && t.pending 18 && t.pc == 1) = true ∧
    goesOn (step { device [0x98E3] with eerie := true }) (fun t => !t.eerie && !t.pending 18) = true ∧
    goesOn (step (device [0x9AC3])) (fun t => t.ioLog == [.bit 0x18 3 true]) = true ∧
    goesOn (step (device [0x98C3])) (fun t => t.ioLog == [.bit 0x18 3 false]) = true := by
  decide +kernel

/-- E1, E2: an EEPROM read. -/
theorem test_eeprom_read :
    goesOn (step { device [0x9AE0] with eeprom := [(0x0123, 0x3C)] }) (fun t => t.eedr == 0x3C && t.pc == 1) = true ∧
    refuses (step { device [0x9AE0] with eeWrite := writing 5 }) .eereWhileBusy = true := by
  decide +kernel

/-- E3 … E7: the window of EEMWE. The programmer's wait in E4 is a free value. -/
theorem test_eemwe_window :
    goesOn (step (device [0x9AE2])) (fun t => t.window == .opened 0) = true ∧
    goesOn (step { device [0xB30C] with window := .opened 0 }) (fun t => t.reg 16 == 0x04) = true ∧
    goesOn (step { device [0x9AE1] with window := .opened 0 }) (fun t =>
      t.eeWrite.any (fun w => w.addr == 0x0123 && w.data == 0x5A) && t.window == .closed) = true ∧
    goesOn (step (device [0x9AE1])) (fun t => t.eeWrite == none && t.pc == 1) = true ∧
    refuses (step { device [0x9AE1] with window := .opened 1 }) .eeweLate = true ∧
    refuses (step { device [0x9AE1] with window := .opened 3 }) .eeweLate = true ∧
    goesOn (step { device [0x9AE1] with window := .opened 4 }) (fun t => t.eeWrite == none) = true := by
  decide +kernel

/-- E4: the programmer's step, after the waits it takes. -/
theorem test_programmer_step :
    goesOn (step { device [0x0000] with eeWrite := writing 0 }) (fun t =>
      t.eeprom == [(0x0123, 0xA7)] && t.eeWrite == none) = true ∧
    goesOn (step { device [0x0000] with eeWrite := writing 1 }) (fun t =>
      t.eeprom == [] && t.eeWrite == writing 0) = true := by
  decide +kernel

/-- E8 … E10: what EECR and the EEPROM registers refuse. -/
theorem test_eeprom_refusals :
    refuses (step (device [0xBB0C] [(16, 0x06)])) .eeweWithEemwe = true ∧
    refuses (step (device [0xBB0C] [(16, 0x03)])) .eeweWithEere = true ∧
    refuses (step { device [0xBB0E] with eeWrite := writing 5 }) .eepromRegisterWhileBusy = true ∧
    refuses (step { device [0x9AE2] with window := .opened 0 }) .eemweReopened = true := by
  decide +kernel

/-- E11, E12: the implemented bits of EEARH and EECR. -/
theorem test_eearh_eecr_bits :
    goesOn (step (device [0xBB1F] [(17, 0xFF)])) (fun t => (t.ioRead 0x1F).1 == 0x03) = true ∧
    goesOn (step (device [0xBB0C] [(16, 0xF8)])) (fun t => (t.ioRead 0x1C).1 == 0x08) = true := by
  decide +kernel

/-- E13, E14: the entry of source 18, and of the lowest pending source. -/
theorem test_interrupt_entry :
    goesOn (step { device [] [] 0x81 0x0100 with eerie := true }) (fun t =>
      t.sram == [(0x085E, 0x01), (0x085F, 0x00)] && t.sp == 0x085D && t.sreg == 0x01 && t.pc == 0x0022 &&
        t.pending 18) = true ∧
    goesOn (step { device [] [] 0x80 0x0100 with eerie := true, irq := [2, 12] }) (fun t =>
      t.pc == 0x0002 && t.irq == [12] && t.pending 18) = true := by
  decide +kernel

/-- E15, E16: after SEI one more instruction runs, after OUT of SREG none. -/
theorem test_inhibit :
    goesOn (step { device [0x9478] with eerie := true }) (fun t => t.inhibit && t.sreg == 0x80) = true ∧
    goesOn (step { device [0x0000] [] 0x80 with eerie := true, inhibit := true }) (fun t =>
      t.pc == 1 && !t.inhibit) = true ∧
    goesOn (step { device [0xBF0F] [(16, 0x80)] with eerie := true }) (fun t =>
      !t.inhibit && t.sampled == some 18) = true := by
  decide +kernel

/-- B5: SLEEP waits, and an interrupt wakes. -/
theorem test_sleep :
    goesOn (step { device [0x9588] [] 0x80 0x20 with eerie := true, inhibit := true }) (fun t =>
      t.sleeping && t.pc == 0x21 && !t.inhibit) = true ∧
    goesOn (step { device [] [] 0x80 0x21 with eerie := true, sleeping := true }) (fun t =>
      !t.sleeping && t.pc == 0x22 && t.sram == [(0x085E, 0x00), (0x085F, 0x21)]) = true := by
  decide +kernel

/-- A table row's words run as the first instruction after reset. -/
theorem test_withFetchWord :
    goesOn (step (State.reset.withFetchWord 16 0x9478)) (fun t => t.sreg == 0x80 && t.inhibit && t.pc == 1) = true ∧
    goesOn (step (State.reset.withFetchWord 32 0x1234940C)) (fun t => t.pc == 0x1234) = true ∧
    decodeTableWord 32 0x0100940E = some (.call 0x0100) := by
  decide +kernel

/-! One witness for each obligation with hypotheses: a concrete state and operands that meet them, for each clause. -/

theorem exists_next {o : Host.Outcome State Fault Refusal} (h : (nextOf o).isSome = true) : ∃ t, o = .next t := by
  unfold nextOf at h; split at h
  · exact ⟨_, rfl⟩
  · cases h

theorem exists_refused {o : Host.Outcome State Fault Refusal} {r : Refusal} (h : refuses o r = true) :
    ∃ e, o = .refused e := by
  unfold refuses at h; split at h
  · exact ⟨_, rfl⟩
  · cases h

/-- Whether an operation answers. -/
def answers {α : Type} (x : Res α) : Bool :=
  match x with
  | .ok _ => true
  | .error _ => false

theorem exists_ok {α : Type} {x : Res α} (h : answers x = true) : ∃ a, x = .ok a := by
  unfold answers at h; split at h
  · exact ⟨_, rfl⟩
  · cases h

theorem exists_error {α : Type} {x : Res α} (h : answers x = false) : ∃ e, x = .error e := by
  unfold answers at h; split at h
  · cases h
  · exact ⟨_, rfl⟩

theorem witness_DecodeOfEncode :
    (Instr.jmp 0x3FFFFF).wf = true ∧ bigDevice.admits (.jmp 0x3FFFFF) = true ∧
    (Instr.adiw 30 63).wf = true ∧ bigDevice.admits (.adiw 30 63) = true := by decide

theorem witness_EncodeOfDecode :
    decode .classic 0x95FF 0xFFFF = some (.call 0x3FFFFF) ∧ decode .reduced 0xAFFF 0 = some (.stsShort 0x7F 31) := by
  decide +kernel

theorem witness_UndecodableWordsEncodeNothing :
    decode bigDevice.core 0xFFFF 0 = none ∧ Instr.nop.wf = true ∧ bigDevice.admits .nop = true ∧
    1 ≤ (0x0001 : Word).toNat ∧ (0x00FF : Word).toNat ≤ 0xFF := by decide +kernel

/-- A two-word and a one-word instruction at pc, and a state in which the other agents do nothing. -/
theorem witness_StepRunsDecodedInstruction :
    let s := device [0x940E, 0x0100]
    (s.agents.sampled = none ∧ s.agents.sleeping = false ∧ s.halted = false ∧ s.agents.progWord? s.agents.pc.toNat = some 0x940E ∧
      s.agents.progWord? s.agents.nextWordAddr = some 0x0100 ∧
      decode s.agents.dev.core 0x940E 0x0100 = some (.call 0x0100) ∧ s.agents.dev.admits (.call 0x0100) = true) ∧
    s.eeWrite = none ∧ s.dev.envIrq = [] ∧
    (device [0x9588]).agents.progWord? 0 = some 0x9588 ∧ skipLen 0x9588 = 1 ∧ decode .classic 0x9588 0 = some .sleep := by
  decide +kernel

theorem decode_erased (w2 : Word) : decode .classic 0xFFFF w2 = none := rfl

/-- An erased word; pc at `FLASH_WORDS`; the first word of a JMP in the last word of program memory. -/
theorem witness_FetchStops :
    (State.reset.agents.sampled = none ∧ State.reset.agents.sleeping = false ∧ State.reset.halted = false ∧
      State.reset.agents.progWord? State.reset.agents.pc.toNat = some 0xFFFF ∧
      ∀ w2 i, decode State.reset.agents.dev.core 0xFFFF w2 = some i → State.reset.agents.dev.admits i = false) ∧
    (let s := device [] (pc := 0x4000)
     s.agents.sampled = none ∧ s.agents.sleeping = false ∧ s.halted = false ∧
      s.agents.dev.flashWords ≤ s.agents.pc.toNat) ∧
    (let s := device [0x940C] (pc := 0x3FFF)
     s.agents.sampled = none ∧ s.agents.sleeping = false ∧ s.halted = false ∧
      s.agents.progWord? s.agents.pc.toNat = some 0x940C ∧
      skipLen 0x940C = 2 ∧ decode s.agents.dev.core 0x940C 0x3FFF = some (.jmp 0x3FFF) ∧
      s.agents.dev.admits (.jmp 0x3FFF) = true ∧ s.agents.dev.flashWords ≤ s.agents.nextWordAddr) := by
  refine ⟨⟨by decide +kernel, by decide +kernel, rfl, by decide +kernel, fun w2 i h => ?_⟩, by decide +kernel,
    by decide +kernel⟩
  rw [show State.reset.agents.dev.core = .classic from rfl, decode_erased] at h
  cases h

/-- Source 18 with no other, and source 2. -/
theorem witness_LowestPendingSourceIsEntered :
    (let s := { device [] [] 0x80 with eerie := true }
     s.halted = false ∧ bitOf s.agents.sreg bitI = true ∧ s.agents.inhibit = false ∧ 18 ≤ s.agents.dev.nVectors ∧
      s.agents.pending 18 = true ∧ ∀ m, m < 18 → 2 ≤ m → s.agents.pending m = false) ∧
    (let s := { device [] [] 0x80 with irq := [2, 12] }
     s.halted = false ∧ bitOf s.agents.sreg bitI = true ∧ s.agents.inhibit = false ∧ s.agents.pending 2 = true) := by
  decide +kernel

/-- I clear, the delay pending, no source pending; asleep. -/
theorem witness_MaskedOrDelayedTakesNoInterrupt :
    (let s := { device [] with eerie := true, sleeping := true }
     bitOf s.agents.sreg bitI = false ∧ s.agents.sleeping = true ∧ s.halted = false) ∧
    { device [] [] 0x80 with eerie := true, inhibit := true }.agents.inhibit = true ∧
    (let s := device [] [] 0x80
     ∀ n, n < 22 → 2 ≤ n → s.agents.pending n = false) := by
  decide +kernel

/-- The lowest and the highest SP of each class whose pushed bytes lie in SRAM; SP in the register file, which takes the push;
SP on SPL and on SPH, and above RAMEND, which do not. -/
theorem witness_InterruptEntryEffect :
    ({ device [] with sp := 0x0061 }.stackInSram ∧ (device []).stackInSram ∧ (big [] 0x0062).stackInSram ∧
      (big [] 0x21FF).stackInSram) ∧
    (let s := { device [] with sp := 0x0001 }
     ∃ u, s.pushPc s.pc = .ok u) ∧
    (let s := { device [] with sp := 0x0860 }
     (∃ e, s.pushPc s.pc = .error e) ∧ 0x60 ≤ s.sp.toNat ∧ s.dev.ramEnd < s.sp.toNat) ∧
    (0x005D : Word).toNat = (device []).dev.splAddr.toNat + 0x20 ∧
    (0x005E : Word).toNat = (device []).dev.sphAddr.toNat + 0x20 := by
  refine ⟨by unfold State.stackInSram; decide +kernel, exists_ok (by decide +kernel),
    ⟨exists_error (by decide +kernel), by decide, by decide⟩, by decide, by decide⟩

theorem witness_EntryThenRetiResumes :
    let s := device [] [] 0x80 0xFFFF
    s.stackInSram ∧ s.pc.toNat < 2 ^ s.dev.pcBits ∧ ∃ t, s.interruptEntry 18 = .ok t := by
  refine ⟨by unfold State.stackInSram; decide +kernel, by decide +kernel, exists_ok (by decide +kernel)⟩

/-- A return address in SRAM above SP, on each class. -/
def returning : State := { device [] with sp := 0x085D, sram := [(0x085E, 0x12), (0x085F, 0x36)] }
def returning22 : State := { big [] 0x21FC with sram := [(0x21FD, 0x3F), (0x21FE, 0xFF), (0x21FF, 0xFF)] }

theorem witness_SetIDelaysOneInstruction :
    (∃ t, exec .sei (device []) = .next t) ∧ (∃ t, exec (.bset 7) (device []) = .next t) ∧
    (∃ t, exec .reti returning = .next t) ∧ (∃ t, exec .cli (device []) = .next t) ∧
    (∃ t, exec (.bclr 7) (device []) = .next t) ∧ (∃ t, exec (.out 0x3F 16) (device []) = .next t) := by
  refine ⟨?_, ?_, ?_, ?_, ?_, ?_⟩ <;> exact exists_next (by decide +kernel)

theorem witness_EeReadyIsALevel :
    { device [] with eerie := true }.pending 18 = true ∧ (device []).stackInSram ∧
    ∃ t, (device []).interruptEntry 18 = .ok t := by
  refine ⟨by decide +kernel, by unfold State.stackInSram; decide +kernel, exists_ok (by decide +kernel)⟩

theorem witness_InvariantKept : (device [0x0000]).Inv ∧ ∃ t, step (device [0x0000]) = .next t :=
  ⟨by decide +kernel, exists_next (by decide +kernel)⟩

/-- A step in which the programmer writes the EEPROM. -/
theorem witness_ProgramMemoryAndEepromAreGuarded :
    goesOn (step { device [0x0000] with eeWrite := writing 0 }) (fun t => t.eeprom != []) = true := by decide +kernel

/-- A step that clears request 2 and keeps request 12. -/
theorem witness_RequestsLeaveOnlyByEntry :
    goesOn (step { device [] [] 0x80 with irq := [2, 12] }) (fun t => !t.irq.contains 2 && t.irq.contains 12) = true := by
  decide +kernel

/-- RJMP −1 with I clear; asleep with I clear; at a BREAK that stops the run, with I clear, and halted there with I set. -/
theorem witness_FinalStatesStayFinal :
    (let s := device [0xCFFF]
     s.Inv ∧ s.dev.breakMode = .nop ∧ s.final = true) ∧
    (let s := { device [] with sleeping := true }
     s.Inv ∧ s.dev.breakMode = .nop ∧ s.final = true) ∧
    (let s := { stopping with eeWrite := none }
     s.Inv ∧ s.dev.hasBreak = true ∧ bitOf s.sreg bitI = false ∧ s.final = true) ∧
    (let s := { stopping with eeWrite := none, halted := true, sreg := 0x80 }
     s.Inv ∧ s.halted = true ∧ s.final = true) := by
  decide +kernel

/-- BREAK_MODE stop on a device without BREAK. -/
def breakless (l : List Word) : State :=
  { device l with dev := { Device.atmega32 with breakMode := .stop, hasBreak := false } }

/-- There, RJMP −1 with I clear, and asleep with I clear at the word of BREAK. -/
theorem witness_FinalStatesStayFinal_without_break :
    (let s := breakless [0xCFFF]
     s.Inv ∧ s.dev.breakMode = .stop ∧ s.dev.hasBreak = false ∧ bitOf s.sreg bitI = false ∧
       s.progWord? s.pc.toNat ≠ some 0x9598 ∧ s.final = true) ∧
    (let s := { breakless [0x9598] with sleeping := true }
     s.Inv ∧ s.dev.breakMode = .stop ∧ bitOf s.sreg bitI = false ∧ s.sleeping = true ∧ s.final = true) := by
  decide +kernel

theorem witness_WordAddSubtractEffect : Reg.pairHigh 24 = true ∧ Reg.pairHigh 30 = true := by decide

theorem witness_MoveEffect : Reg.even 0 = true ∧ Reg.even 30 = true ∧ 16 ≤ (16 : Reg).toNat := by decide

theorem witness_JumpEffect :
    (big []).dev.pcClass = .bits22 ∧ (0xFFFF : PcAddr).toNat < 2 ^ (device []).dev.pcBits ∧
    2 ^ (device []).dev.pcBits ≤ (0x10000 : PcAddr).toNat := by decide

/-- Not skipping, skipping two words, a second word to be skipped at `FLASH_WORDS`, and a first one. -/
theorem witness_RegisterSkipEffect :
    (let s := device [0x1001, 0x940C] [(1, 0x05)]
     decide (s.reg 0 = s.reg 1) = false ∧ decide (s.reg 0 = s.reg 2) = true ∧
      s.progWord? ((s.pc.toNat + 1) % 2 ^ s.dev.pcBits) = some 0x940C ∧ skipLen 0x940C = 2 ∧
      (s.pc.toNat + 2) % 2 ^ s.dev.pcBits < s.dev.flashWords) ∧
    (let s := device [0x1000, 0x940C] (pc := 0x3FFE)
     decide (s.reg 0 = s.reg 0) = true ∧ s.progWord? ((s.pc.toNat + 1) % 2 ^ s.dev.pcBits) = some 0x940C ∧
      skipLen 0x940C = 2 ∧ s.dev.flashWords ≤ (s.pc.toNat + 2) % 2 ^ s.dev.pcBits) ∧
    (let s := device [0x1000] (pc := 0x3FFF)
     decide (s.reg 0 = s.reg 0) = true ∧ s.dev.flashWords ≤ (s.pc.toNat + 1) % 2 ^ s.dev.pcBits) := by
  decide +kernel

theorem witness_IoSkipEffect :
    (let s := device [0x99E1, 0x0000]
     ((!(s.ioRead 0x1C).1.getLsbD 1) = true ∧ (s.ioRead 0x1C).1.getLsbD 1 = false) ∧
      s.progWord? ((s.pc.toNat + 1) % 2 ^ s.dev.pcBits) = some 0x0000 ∧ skipLen 0x0000 = 1) ∧
    (let s := device [0x99E1, 0x940C] (pc := 0x3FFE)
     (!(s.ioRead 0x1C).1.getLsbD 1) = true ∧ s.progWord? ((s.pc.toNat + 1) % 2 ^ s.dev.pcBits) = some 0x940C ∧
      skipLen 0x940C = 2 ∧ s.dev.flashWords ≤ (s.pc.toNat + 2) % 2 ^ s.dev.pcBits) ∧
    (let s := device [0x99E1] (pc := 0x3FFF)
     (!(s.ioRead 0x1C).1.getLsbD 1) = true ∧ s.dev.flashWords ≤ (s.pc.toNat + 1) % 2 ^ s.dev.pcBits) := by
  decide +kernel

/-- A stack in SRAM; one in the register file, which takes the push; one above RAMEND, which does not. -/
theorem witness_CallEffect :
    ((device []).stackInSram ∧ (0xFFFF : PcAddr).toNat < 2 ^ (device []).dev.pcBits) ∧
    (∃ u, { device [] with sp := 0x0001 }.pushPc 1 = .ok u) ∧
    (∃ e, { device [] with sp := 0x0860 }.pushPc 1 = .error e) ∧
    2 ^ (device []).dev.pcBits ≤ (0x10000 : PcAddr).toNat := by
  refine ⟨⟨by unfold State.stackInSram; decide +kernel, by decide⟩, exists_ok (by decide +kernel),
    exists_error (by decide +kernel), by decide⟩

/-- A return address in SRAM, in the register file, above RAMEND. -/
theorem witness_ReturnEffect :
    (HoldsReturn returning 0x1236 ∧ (0x1236 : PcAddr).toNat < 2 ^ returning.dev.pcBits ∧
      ∃ x, returning.popPc = .ok x) ∧
    (HoldsReturn returning22 0x3FFFFF ∧ (0x3FFFFF : PcAddr).toNat < 2 ^ returning22.dev.pcBits) ∧
    (∃ x, { device [] with sp := 0x000F }.popPc = .ok x) ∧ ∃ e, { device [] with sp := 0x085F }.popPc = .error e := by
  refine ⟨⟨by unfold HoldsReturn; decide +kernel, by decide, exists_ok (by decide +kernel)⟩,
    ⟨by unfold HoldsReturn; decide +kernel, by decide⟩, exists_ok (by decide +kernel), exists_error (by decide +kernel)⟩

theorem witness_CallThenRetReturns :
    (device []).stackInSram ∧ (∃ t, exec (.rcall 2) (device []) = .next t) ∧ (∃ t, exec .icall (device []) = .next t) ∧
    (∃ t, exec .eicall (device []) = .next t) ∧ (∃ t, exec (.call 0xFFFF) (device []) = .next t) := by
  refine ⟨by unfold State.stackInSram; decide +kernel, ?_, ?_, ?_, ?_⟩ <;> exact exists_next (by decide +kernel)

/-- A state with the first and the last byte of SRAM written, and every pointer at the first. -/
def loading : State :=
  { device [] [(26, 0x60), (28, 0x60), (30, 0x60)] with sram := [(0x0060, 0x99), (0x085F, 0x42)] }

/-- Data addresses at the edges of the register file, the I/O space and SRAM; a byte never written; above RAMEND; below
RAMSTART. -/
theorem witness_LoadEffect :
    Reads loading 0x001F (loading.reg 31) loading ∧
    Reads loading 0x0020 (loading.ioRead 0x00).1 (loading.ioRead 0x00).2 ∧
    Reads loading 0x005F (loading.ioRead 0x3F).1 (loading.ioRead 0x3F).2 ∧
    Reads loading 0x0060 0x99 loading ∧ Reads loading 0x085F 0x42 loading ∧
    (loading.inSram 0x0061 ∧ Memory.get? loading.sram 0x0061 = none) ∧ loading.dev.ramEnd < 0x0860 ∧
    (0x00FF : Word).toNat < (laterRam [] 0).dev.ramStart := by
  refine ⟨.inl ⟨by decide, rfl, rfl⟩, .inr (.inl ⟨by decide, by decide, rfl⟩), .inr (.inl ⟨by decide, by decide, rfl⟩),
    .inr (.inr ⟨?_, by decide +kernel, rfl⟩), .inr (.inr ⟨?_, by decide +kernel, rfl⟩), ⟨?_, by decide +kernel⟩,
    by decide, by decide⟩ <;> · unfold State.inSram; decide

/-- Stores to a register, to SRAM, to SREG (which completes), to EEARL during a write (which is refused), above
RAMEND. -/
theorem witness_StoreEffect :
    (0x001F : Word).toNat < 0x20 ∧ loading.inSram 0x0060 ∧ loading.inSram 0x085F ∧
    (∃ u, loading.ioWrite (((0x005F : Word) - 0x20).setWidth 6) 0x81 = .ok u) ∧
    (∃ e, { loading with eeWrite := writing 0 }.ioWrite (((0x003E : Word) - 0x20).setWidth 6) 0x81 = .error e) ∧
    loading.dev.ramEnd < 0x0860 ∧ (0x0060 : Word).toNat < (laterRam [] 0).dev.ramStart := by
  refine ⟨by decide, ?_, ?_, exists_ok (by decide +kernel), exists_error (by decide +kernel), by decide, by decide⟩ <;>
    · unfold State.inSram; decide

theorem witness_LoadChangedPointerEffect :
    ((0 : Reg) ≠ Ptr.x.low ∧ (0 : Reg) ≠ Ptr.x.low + 1 ∧ Ptr.x.at (loading.ptr .x) = false ∧
      Reads loading (loading.ptr .x) 0x99 loading) ∧
    (let s := loading.setPtr .z 0x0061
     (0 : Reg) ≠ Ptr.z.low ∧ (0 : Reg) ≠ Ptr.z.low + 1 ∧ Ptr.z.at (s.ptr .z - 1) = false ∧
      Reads s (s.ptr .z - 1) 0x99 s) ∧
    (let s := loading.setPtr .y 0x0061
     Ptr.y.at (s.ptr .y) = false ∧ ReadStops s (s.ptr .y) (.fault (.sramUnwritten 0x0061))) ∧
    (let s := loading.setPtr .y 0x0861
     Ptr.y.at (s.ptr .y - 1) = false ∧ ReadStops s (s.ptr .y - 1) (.refused (.dataAddressBeyondRam 0x0860))) := by
  refine ⟨⟨by decide, by decide, by decide +kernel, .inr (.inr ⟨?_, by decide +kernel, rfl⟩)⟩, ⟨by decide, by decide,
    by decide +kernel, .inr (.inr ⟨?_, by decide +kernel, rfl⟩)⟩, ⟨by decide +kernel, .inl ⟨?_, by decide +kernel, ?_⟩⟩,
    by decide +kernel, .inr (.inl ⟨by decide +kernel, by decide +kernel, ?_⟩)⟩ <;>
    first | rfl | · unfold State.inSram; decide +kernel

theorem witness_StoreChangedPointerEffect :
    (0 : Reg) ≠ Ptr.x.low ∧ (0 : Reg) ≠ Ptr.x.low + 1 ∧
    (Ptr.x.at (loading.ptr .x) = false ∧ loading.inSram (loading.ptr .x)) ∧
    (let s := loading.setPtr .x 0x0020
     Ptr.x.at (s.ptr .x - 1) = false ∧ (s.ptr .x - 1).toNat < 0x20) ∧
    (let s := loading.setPtr .x 0x005F
     Ptr.x.at (s.ptr .x) = false ∧ 0x20 ≤ (s.ptr .x).toNat ∧ (s.ptr .x).toNat < 0x60 ∧
      ∃ u, s.ioWrite ((s.ptr .x - 0x20).setWidth 6) 0x81 = .ok u) ∧
    (let s := { loading.setPtr .x 0x003E with eeWrite := writing 0 }
     ∃ e, WriteStops s (s.ptr .x) (s.reg 0) e) ∧
    (let s := loading.setPtr .x 0x0860
     Ptr.x.at (s.ptr .x) = false ∧ WriteStops s (s.ptr .x) (s.reg 0) (.refused (.dataAddressBeyondRam 0x0860))) := by
  refine ⟨by decide, by decide, ⟨by decide +kernel, ?_⟩, by decide +kernel, ⟨by decide +kernel, by decide +kernel,
    by decide +kernel, exists_ok (by decide +kernel)⟩, ?_, by decide +kernel,
    .inr (.inl ⟨by decide +kernel, by decide +kernel, rfl⟩)⟩
  · unfold State.inSram; decide +kernel
  · obtain ⟨e, he⟩ := exists_error (x := { loading.setPtr .x 0x003E with eeWrite := writing 0 }.ioWrite 0x1E
      (loading.reg 0)) (by decide +kernel)
    exact ⟨e, .inl ⟨by decide +kernel, by decide +kernel, he⟩⟩

theorem witness_PointerOverlapRefused :
    ((26 : Reg) = Ptr.x.low ∧ (27 : Reg) = Ptr.x.low + 1) ∧
    ((0 : Reg) ≠ Ptr.x.low ∧ (0 : Reg) ≠ Ptr.x.low + 1 ∧
      ((loading.setPtr .x 0x001A).ptr .x - 0).toNat = Ptr.x.low.toNat ∧
      ((loading.setPtr .x 0x001C).ptr .x - 1).toNat = Ptr.x.low.toNat + 1) := by
  decide +kernel

/-- The last byte of program memory, and the first address beyond it. -/
theorem witness_ProgramLoadEffect :
    (device []).progWord? (0x7FFF / 2) = some 0xFFFF ∧ (device []).dev.flashWords ≤ 0x8000 / 2 ∧
    (big []).progWord? (0x3FFFF / 2) = some 0xFFFF ∧ (big []).dev.flashWords ≤ 0x40000 / 2 ∧
    (0 : Reg) ≠ 30 ∧ (0 : Reg) ≠ 31 := by
  decide +kernel

/-- The addresses of every register that the big device describes, and one that it does not. -/
theorem witness_InEffect :
    let c := (big []).dev
    c.wf = true ∧ c.hasRampz = true ∧ c.hasEind = true ∧ c.gpiorAddrs[0]? = some 0x13 ∧ c.gpiorAddrs[2]? = some 0x15 ∧
      c.splAddr = 0x3D ∧ c.sphAddr = 0x3E ∧ c.rampzAddr = 0x3B ∧ c.eindAddr = 0x3C ∧ c.eearlAddr = 0x1E ∧
      c.eearhAddr = 0x1F ∧ c.eedrAddr = 0x1D ∧ c.eecrAddr = 0x1C ∧ (0x00 : IoAddr) ∉ c.describedAddrs ∧
      (big []).window = .closed ∧ { big [] with window := .opened 1 }.window = .opened 1 := by
  decide +kernel

theorem witness_OutEffect :
    (big []).dev.wf = true ∧ (big []).dev.hasRampz = true ∧ (big []).dev.hasEind = true ∧
    (big []).dev.gpiorAddrs[2]? = some 0x15 ∧ (big []).eeWrite = none ∧
    { big [] with eeWrite := writing 0 }.eeWrite ≠ none ∧ (0x00 : IoAddr) ∉ (big []).dev.describedAddrs ∧
    (let s := device [] [(16, 0xF8)]
     (0x1C : IoAddr) = s.dev.eecrAddr ∧ (s.reg 16).getLsbD 0 = false ∧ (s.reg 16).getLsbD 1 = false ∧
      (s.reg 16).getLsbD 2 = false) := by
  decide +kernel

theorem witness_GeneralRegistersAreDataSpace :
    (let s := device [] [(26, 31)]
     s.reg 27 = 0 ∧ (s.reg 26).toNat = (31 : Reg).toNat) ∧
    (device []).reg 27 = 0 ∧ ((device []).reg 26).toNat = (0 : Reg).toNat := by
  decide +kernel

theorem witness_IoRegistersAreDataSpace :
    (∃ u, exec (.out 0x3F 16) (device []) = .next u) ∧
    ∃ e, exec (.out 0x1E 16) { device [] with eeWrite := writing 0 } = .refused e :=
  ⟨exists_next (by decide +kernel), exists_refused (r := .eepromRegisterWhileBusy) (by decide +kernel)⟩

theorem witness_IoBitEffect :
    (big []).dev.wf = true ∧ (big []).dev.gpiorAddrs[1]? = some ((0x14 : BitVec 5).setWidth 6) ∧
    (0x18 : BitVec 5).setWidth 6 ∉ (big []).dev.describedAddrs ∧
    (0x1C : BitVec 5).setWidth 6 = (big []).dev.eecrAddr ∧
    ((0x1D : BitVec 5).setWidth 6 ∈ (big []).dev.describedAddrs ∧
      (0x1D : BitVec 5).setWidth 6 ≠ (big []).dev.eecrAddr ∧ (∃ u, (big []).ioWrite 0x1D 0x01 = .ok u) ∧
      ∃ e, { big [] with eeWrite := writing 0 }.ioWrite 0x1D 0x01 = .error e) := by
  refine ⟨by decide +kernel, by decide, by decide, by decide, by decide, by decide, exists_ok (by decide +kernel),
    exists_error (by decide +kernel)⟩

/-- SP at the edges of the register file, the I/O space, SPL and SPH, SRAM, and above RAMEND. -/
theorem witness_PushEffect :
    ({ device [] with sp := 0x0060 }.inSram 0x0060 ∧ (device []).inSram 0x085F) ∧ (0x001F : Word).toNat < 0x20 ∧
    (0x005D : Word).toNat = (device []).dev.splAddr.toNat + 0x20 ∧
    (0x005E : Word).toNat = (device []).dev.sphAddr.toNat + 0x20 ∧
    ((0x005F : Word).toNat ≠ (device []).dev.splAddr.toNat + 0x20 ∧
      (0x005F : Word).toNat ≠ (device []).dev.sphAddr.toNat + 0x20 ∧
      (∃ u, { device [] with sp := 0x005F }.ioWrite (((0x005F : Word) - 0x20).setWidth 6) 0x81 = .ok u)) ∧
    (device []).dev.ramEnd < (0x0860 : Word).toNat ∧
    (∃ e, WriteStops { device [] with sp := 0x003E, eeWrite := writing 0 } 0x003E ((device []).reg 0) e) ∧
    WriteStops (laterRam [] 0x00FF) 0x00FF ((laterRam [] 0x00FF).reg 0) (.refused (.dataAddressBelowRam 0x00FF)) := by
  refine ⟨⟨?_, ?_⟩, by decide, by decide, by decide, ⟨by decide, by decide, exists_ok (by decide +kernel)⟩, by decide, ?_,
    .inr (.inr ⟨by decide, by decide, by decide, rfl⟩)⟩
  · unfold State.inSram; decide
  · unfold State.inSram; decide
  · obtain ⟨e, he⟩ := exists_error (x := { device [] with sp := 0x003E, eeWrite := writing 0 }.ioWrite 0x1E
      ((device []).reg 0)) (by decide +kernel)
    exact ⟨e, .inl ⟨by decide, by decide, he⟩⟩

theorem witness_PopEffect :
    (let s := { loading with sp := 0x005F }
     s.sp + 1 ≠ BitVec.ofNat 16 (s.dev.splAddr.toNat + 0x20) ∧ s.sp + 1 ≠ BitVec.ofNat 16 (s.dev.sphAddr.toNat + 0x20) ∧
      Reads { s with sp := s.sp + 1 } (s.sp + 1) 0x99 { s with sp := s.sp + 1 }) ∧
    (0x005C : Word) + 1 = BitVec.ofNat 16 ((device []).dev.splAddr.toNat + 0x20) ∧
    ((device []).inSram (device []).sp ∧ ∃ t, exec (.push 16) (device []) = .next t) ∧
    ReadStops (device []) ((device []).sp + 1) (.refused (.dataAddressBeyondRam 0x0860)) ∧
    ReadStops { loading with sp := 0x0060 } 0x0061 (.fault (.sramUnwritten 0x0061)) := by
  refine ⟨⟨by decide, by decide, .inr (.inr ⟨?_, by decide +kernel, rfl⟩)⟩, by decide, ⟨?_,
    exists_next (by decide +kernel)⟩, .inr (.inl ⟨by decide, by decide, rfl⟩), .inl ⟨?_, by decide +kernel, rfl⟩⟩ <;>
    · unfold State.inSram; decide

theorem witness_ExchangeEffect :
    (loading.inSram (loading.ptr .z) ∧ Memory.get? loading.sram (loading.ptr .z).toNat = some 0x99) ∧
    ((loading.setPtr .z 0x001F).ptr .z).toNat < 0x20 ∧
    (let s := loading.setPtr .z 0x005F
     0x20 ≤ (s.ptr .z).toNat ∧ (s.ptr .z).toNat < 0x60 ∧
      ∃ w, (s.ioRead 0x3F).2.ioWrite ((s.ptr .z - 0x20).setWidth 6) 0x81 = .ok w) ∧
    (let s := { loading.setPtr .z 0x003E with eeWrite := writing 0 }
     0x20 ≤ (s.ptr .z).toNat ∧ (s.ptr .z).toNat < 0x60 ∧
      ∃ e, (s.ioRead ((s.ptr .z - 0x20).setWidth 6)).2.ioWrite ((s.ptr .z - 0x20).setWidth 6) (s.reg 0) = .error e) ∧
    (let s := loading.setPtr .z 0x0061
     ReadStops s (s.ptr .z) (.fault (.sramUnwritten 0x0061))) := by
  refine ⟨⟨?_, by decide +kernel⟩, by decide +kernel, ⟨by decide +kernel, by decide +kernel, exists_ok (by decide +kernel)⟩,
    ⟨by decide +kernel, by decide +kernel, exists_error (by decide +kernel)⟩, .inl ⟨?_, by decide +kernel, rfl⟩⟩ <;>
    · unfold State.inSram; decide +kernel

theorem witness_ControlEffect :
    goesOn (exec .sleep (device [])) (fun t => t.agents.sampled == none) = true ∧
    (device []).dev.hasBreak = true ∧ (device []).dev.breakMode = .nop ∧
    { Device.atmega32 with breakMode := .stop }.hasBreak = true := by
  decide +kernel

/-- The last byte of the EEPROM; OUT of 0x09 and of 0x05. -/
theorem witness_EepromReadEffect :
    let s := { device [] [(16, 0x09), (17, 0x05)] with eear := 0x3FF }
    s.dev.wf = true ∧ (0x1C : BitVec 5).setWidth 6 = s.dev.eecrAddr ∧ s.eeWrite = none ∧
      s.eear.toNat < s.dev.eepromBytes ∧ (s.reg 16).getLsbD 0 = true ∧ (s.reg 16).getLsbD 1 = false ∧
      (s.reg 16).getLsbD 2 = false ∧ (s.reg 17).getLsbD 0 = true ∧ (s.reg 17).getLsbD 1 = false ∧
      (s.reg 17).getLsbD 2 = true ∧ s.window = .closed := by
  decide +kernel

/-- SBI, and OUT of 0x04 and of 0x02. -/
theorem witness_EepromWriteSequence :
    let s := device [] [(16, 0x04), (17, 0x02)]
    s.dev.wf = true ∧ (0x1C : BitVec 5).setWidth 6 = s.dev.eecrAddr ∧ s.eeWrite = none ∧ s.window = .closed ∧
      s.eear.toNat < s.dev.eepromBytes ∧ (s.reg 16).getLsbD 0 = false ∧ (s.reg 16).getLsbD 1 = false ∧
      (s.reg 16).getLsbD 2 = true ∧ (s.reg 17).getLsbD 0 = false ∧ (s.reg 17).getLsbD 1 = true := by
  decide +kernel

/-- n at the edges of the three ranges, and OUT of 0x06, 0x02 and 0x04. -/
theorem witness_EemweWindowCloses :
    let s := device [] [(16, 0x06), (17, 0x02), (18, 0x04)]
    s.dev.wf = true ∧ (0x1C : BitVec 5).setWidth 6 = s.dev.eecrAddr ∧ s.eeWrite = none ∧
      { s with window := .opened 0 }.window = EemweWindow.aged^[0] (.opened 0) ∧
      { s with window := .opened 2 }.window = EemweWindow.aged^[2] (.opened 0) ∧
      { s with window := .opened 4 }.window = EemweWindow.aged^[4] (.opened 0) ∧
      s.window = EemweWindow.aged^[5] (.opened 0) ∧ (s.reg 16).getLsbD 0 = false ∧ (s.reg 16).getLsbD 1 = true ∧
      (s.reg 16).getLsbD 2 = true ∧ (s.reg 17).getLsbD 0 = false ∧ (s.reg 17).getLsbD 1 = true ∧
      (s.reg 17).getLsbD 2 = false ∧ (s.reg 18).getLsbD 0 = false ∧ (s.reg 18).getLsbD 1 = false ∧
      (s.reg 18).getLsbD 2 = true := by
  decide +kernel

theorem witness_ProgrammerCompletesTheWrite :
    { device [] with eeWrite := writing 3 }.Inv ∧
    { device [] with eeWrite := writing 3 }.eeWrite = some { addr := 0x0123, data := 0xA7, wait := 3 } ∧
    (let s := { stopping with halted := true }
     s.Inv ∧ s.eeWrite = writing 1 ∧ s.halted = true ∧ s.dev.breakMode = .stop ∧
      s.progWord? s.pc.toNat = some 0x9598) := by
  decide +kernel

/-- A write in progress, the window closed; OUT of 0x03, 0x01, 0x02 and 0x04; EEAR at `EEPROM_BYTES` of a device with half the EEPROM. -/
theorem witness_EepromProtocolRefusals :
    (device []).dev.wf = true ∧ (0x1C : BitVec 5).setWidth 6 = (device []).dev.eecrAddr ∧
    { device [] with eeWrite := writing 0 }.eeWrite ≠ none ∧
    { device [] with eeWrite := writing 0 }.window = .closed ∧
    (let s := device [] [(16, 0x03), (17, 0x01), (18, 0x02), (19, 0x04)]
     ((s.reg 16).getLsbD 0 = true ∧ (s.reg 16).getLsbD 1 = true) ∧
      ((s.reg 17).getLsbD 0 = true ∧ (s.reg 17).getLsbD 1 = false ∧ (s.reg 17).getLsbD 2 = false) ∧
      ((s.reg 18).getLsbD 0 = false ∧ (s.reg 18).getLsbD 1 = true) ∧
      ((s.reg 19).getLsbD 0 = false ∧ (s.reg 19).getLsbD 1 = false ∧ (s.reg 19).getLsbD 2 = true)) ∧
    (let c := { Device.atmega32 with eepromBytes := 512 }
     let s := { device [] with dev := c, eear := 512, window := .opened 1 }
     c.wf = true ∧ s.eeWrite = none ∧ s.dev.eepromBytes ≤ s.eear.toNat ∧ s.window = .opened 1) := by
  decide +kernel

end Sys2Proof.Tests
end

section
/-! O13: every step keeps the machine's invariant. An instruction is related to the state it leaves by `InstrKept`,
which says of pc what `Kept` (Laws/Ops.lean) says of the rest; each operand form is shown once to keep it, and `exec`
is covered family by family. The agents and the interrupt entry, which alone change the EEPROM and the requests, are
treated on the invariant itself. -/

namespace Sys2Proof.Machine

/-! What an instruction keeps. -/

/-- pc is below 2^PC_BITS (10_state.md R34). -/
def PcInRange (s : State) : Prop := s.pc.toNat < 2 ^ s.dev.pcBits

/-- `t` follows from `s` by an instruction that keeps the invariant: `Kept`, and pc stays in its range. -/
def InstrKept (s t : State) : Prop := Kept s t ∧ (PcInRange s → PcInRange t)

/-- The invariant is carried along `InstrKept`. -/
theorem InstrKept.inv {s t : State} (k : InstrKept s t) (h : s.Inv) : t.Inv := by
  obtain ⟨⟨⟨hdev, hflash, heeprom, hirq⟩, hdata⟩, hpc⟩ := k
  obtain ⟨wf, pc, sram, flash, eeprom, eeWrite, rampz, eind, rising, sources⟩ := h
  obtain ⟨sram', eeWrite', rampz', eind'⟩ := hdata ⟨sram, eeWrite, rampz, eind⟩
  exact ⟨by rwa [hdev], hpc pc, sram', by rwa [hdev, hflash], by rwa [hdev, heeprom], eeWrite', rampz', eind',
    by rwa [hirq], by rwa [hdev, hirq]⟩

/-- Whatever was kept before it, a write of pc wraps to PC_BITS. -/
theorem InstrKept.setPc {s u : State} (h : Kept s u) (a : PcAddr) : InstrKept s (u.setPc a) :=
  ⟨h.trans (u.setPc_kept a), fun _ => Device.wrap_lt u.dev a⟩

theorem InstrKept.advance {s u : State} (h : Kept s u) (n : PcAddr) : InstrKept s (u.advance n) :=
  .setPc h (u.pc + n)

/-- A later update of fields outside the invariant changes nothing about it. -/
theorem InstrKept.trans_kept {s t u : State} (h : InstrKept s t) (k : Kept t u) (hpc : u.pc = t.pc) :
    InstrKept s u := by
  refine ⟨h.1.trans k, fun hs => ?_⟩
  have hdev : u.dev = t.dev := k.1.1
  unfold PcInRange
  rw [hpc, hdev]
  exact h.2 hs

theorem InstrKept.of_next {s t u : State} (h : (.next u : StepOutcome State) = .next t) (k : InstrKept s u) :
    InstrKept s t := by
  cases h; exact k

/-! The operand forms that always answer. -/

theorem State.alu_instrKept (s : State) (d : Reg) (res : Byte) (f : Flags) : InstrKept s (s.alu d res f) :=
  .advance ((s.setReg_kept d res).trans (State.setFlags_kept _ f)) 1

theorem State.aluPair_instrKept (s : State) (d : Reg) (res : Word) (f : Flags) : InstrKept s (s.aluPair d res f) :=
  .advance ((s.setPair_kept d res).trans (State.setFlags_kept _ f)) 1

theorem State.compare_instrKept (s : State) (f : Flags) : InstrKept s (s.compare f) :=
  .advance (s.setFlags_kept f) 1

theorem State.branchIf_instrKept (s : State) (c : Bool) (k : BitVec 7) : InstrKept s (s.branchIf c k) := by
  unfold State.branchIf
  split
  · exact .setPc (.refl s) _
  · exact .advance (.refl s) 1

theorem State.setInhibit_kept (s : State) (v : Bool) : Kept s { s with inhibit := v } :=
  .of_eq rfl rfl rfl rfl rfl rfl rfl rfl

/-! The operand forms that may stop. -/

theorem State.skip_instrKept {s t : State} {c : Bool} (h : s.skip c = .ok t) : InstrKept s t := by
  rcases State.skip_eq_ok h with ⟨-, rfl⟩ | ⟨-, w, -, -, rfl⟩
  · exact .advance (.refl s) 1
  · exact .advance (.refl s) _

/-- SBIC and SBIS read the I/O space before they skip. -/
theorem State.skip_ioRead_instrKept {s t : State} {A : IoAddr} {c : Bool} (h : (s.ioRead A).2.skip c = .ok t) :
    InstrKept s t := by
  rcases State.skip_eq_ok h with ⟨-, rfl⟩ | ⟨-, w, -, -, rfl⟩
  · exact .advance (s.ioRead_kept A) 1
  · exact .advance (s.ioRead_kept A) _

theorem State.callTo_instrKept {s t : State} {ret target : PcAddr} (h : s.callTo ret target = .ok t) :
    InstrKept s t := by
  obtain ⟨u, hu, rfl⟩ := State.callTo_eq_ok h
  exact .setPc (State.pushPc_kept hu) target

theorem State.returnFromInterrupt_instrKept {s t : State} (h : s.returnFromInterrupt = .ok t) : InstrKept s t := by
  obtain ⟨a, u, hu, rfl⟩ := State.returnFromInterrupt_eq_ok h
  have hpop : InstrKept s (u.setPc a) := .setPc (State.popPc_kept hu) a
  exact hpop.trans_kept ((State.setSregBit_kept _ bitI true).trans (State.setInhibit_kept _ true)) rfl

theorem State.load_instrKept {s t : State} {d : Reg} {ea : Word} {n : PcAddr} (h : s.load d ea n = .ok t) :
    InstrKept s t := by
  obtain ⟨v, u, hu, rfl⟩ := State.load_eq_ok h
  exact .advance ((State.memRead_kept hu).trans (u.setReg_kept d v)) n

theorem State.store_instrKept {s t : State} {r : Reg} {ea : Word} {n : PcAddr} (h : s.store r ea n = .ok t) :
    InstrKept s t := by
  obtain ⟨u, hu, rfl⟩ := State.store_eq_ok h
  exact .advance (State.memWrite_kept hu) n

theorem State.loadInc_instrKept {s t : State} {p : Ptr} {d : Reg} (h : s.loadInc p d = .ok t) : InstrKept s t := by
  obtain ⟨-, -, v, u, hu, rfl⟩ := State.loadInc_eq_ok h
  exact .advance (((State.memRead_kept hu).trans (u.setReg_kept d v)).trans (State.setPtr_kept _ p _)) 1

theorem State.loadDec_instrKept {s t : State} {p : Ptr} {d : Reg} (h : s.loadDec p d = .ok t) : InstrKept s t := by
  obtain ⟨-, -, v, u, hu, rfl⟩ := State.loadDec_eq_ok h
  exact .advance (((s.setPtr_kept p _).trans (State.memRead_kept hu)).trans (u.setReg_kept d v)) 1

theorem State.storeInc_instrKept {s t : State} {p : Ptr} {r : Reg} (h : s.storeInc p r = .ok t) : InstrKept s t := by
  obtain ⟨-, -, u, hu, rfl⟩ := State.storeInc_eq_ok h
  exact .advance ((State.memWrite_kept hu).trans (u.setPtr_kept p _)) 1

theorem State.storeDec_instrKept {s t : State} {p : Ptr} {r : Reg} (h : s.storeDec p r = .ok t) : InstrKept s t := by
  obtain ⟨-, -, u, hu, rfl⟩ := State.storeDec_eq_ok h
  exact .advance ((s.setPtr_kept p _).trans (State.memWrite_kept hu)) 1

theorem State.loadProgram_instrKept {s t : State} {d : Reg} {b : ProgByteAddr} (h : s.loadProgram d b = .ok t) :
    InstrKept s t := by
  obtain ⟨v, -, rfl⟩ := State.loadProgram_eq_ok h
  exact .advance (s.setReg_kept d v) 1

/-! The meanings that are no use of one operand form. -/

theorem execJmp_instrKept {k : PcAddr} {s t : State} (h : execJmp k s = .next t) : InstrKept s t := by
  obtain ⟨-, -, ht⟩ := res_bind_eq_ok.1 (finish_eq_next.1 h)
  cases ht
  exact .setPc (.refl s) k

theorem execCall_instrKept {k : PcAddr} {s t : State} (h : execCall k s = .next t) : InstrKept s t := by
  obtain ⟨-, -, ht⟩ := res_bind_eq_ok.1 (finish_eq_next.1 h)
  exact State.callTo_instrKept ht

theorem execRet_instrKept {s t : State} (h : execRet s = .next t) : InstrKept s t := by
  obtain ⟨⟨a, u⟩, hu, ht⟩ := res_bind_eq_ok.1 (finish_eq_next.1 h)
  cases ht
  exact .setPc (State.popPc_kept hu) a

/-- One operation that may stop, then pc passes one word: SBI, CBI, OUT and PUSH. -/
theorem InstrKept.bind_advance {s t : State} {x : Res State} (hx : ∀ {u}, x = .ok u → Kept s u)
    (h : (x >>= fun u => .ok (u.advance 1)) = .ok t) : InstrKept s t := by
  obtain ⟨u, hu, ht⟩ := res_bind_eq_ok.1 h
  cases ht
  exact .advance (hx hu) 1

theorem execPop_instrKept {d : Reg} {s t : State} (h : execPop d s = .next t) : InstrKept s t := by
  obtain ⟨⟨v, u⟩, hu, ht⟩ := res_bind_eq_ok.1 (finish_eq_next.1 h)
  cases ht
  exact .advance ((State.pop8_kept hu).trans (u.setReg_kept d v)) 1

theorem execXch_instrKept {d : Reg} {s t : State} (h : execXch d s = .next t) : InstrKept s t := by
  obtain ⟨⟨v, u⟩, hu, hrest⟩ := res_bind_eq_ok.1 (finish_eq_next.1 h)
  obtain ⟨x, hx, ht⟩ := res_bind_eq_ok.1 hrest
  cases ht
  exact .advance (((State.memRead_kept hu).trans (State.memWrite_kept hx)).trans (x.setReg_kept d v)) 1

theorem execLpmZInc_instrKept {d : Reg} {s t : State} (h : execLpmZInc d s = .next t) : InstrKept s t := by
  have h := finish_eq_next.1 h
  split at h
  · exact absurd h refuse_ne_ok
  · obtain ⟨v, -, ht⟩ := res_bind_eq_ok.1 h
    cases ht
    exact .advance ((s.setReg_kept d v).trans (State.setPtr_kept _ .z _)) 1

theorem execElpmZInc_instrKept {d : Reg} {s t : State} (h : execElpmZInc d s = .next t) : InstrKept s t := by
  have h := finish_eq_next.1 h
  split at h
  · exact absurd h refuse_ne_ok
  · obtain ⟨v, -, ht⟩ := res_bind_eq_ok.1 h
    cases ht
    exact .advance ((s.setReg_kept d v).trans (State.setRampzZ_kept _ _)) 1

/-- BREAK passes one word, or halts with pc still at it. -/
theorem execBrk_instrKept {s t : State} (h : execBrk s = .next t) : InstrKept s t := by
  unfold execBrk at h
  split at h
  · split at h
    · cases h; exact .advance (.refl s) 1
    · cases h; exact ⟨.of_eq rfl rfl rfl rfl rfl rfl rfl rfl, id⟩
  · cases h

theorem execSleep_instrKept {s t : State} (h : execSleep s = .next t) : InstrKept s t := by
  cases h
  exact (InstrKept.advance (.refl s) 1).trans_kept (.of_eq rfl rfl rfl rfl rfl rfl rfl rfl) rfl

/-! Every instruction. -/

/-- Every instruction that answers keeps what the invariant speaks of. -/
theorem exec_instrKept {i : Instr} {s t : State} (h : exec i s = .next t) : InstrKept s t := by
  cases i with
  -- a byte result and its flags
  | add | adc | sub | subi | sbc | sbci | and | andi | or | ori | eor | com | neg | sbr | cbr | inc | dec | tst | clr
  | lsl | lsr | rol | ror | asr => exact .of_next h (State.alu_instrKept ..)
  -- a pair result and its flags
  | adiw | sbiw | mul | muls | mulsu | fmul | fmuls | fmulsu => exact .of_next h (State.aluPair_instrKept ..)
  -- registers without flags
  | ser | mov | ldi | swap | bld => exact .of_next h (.advance (State.setReg_kept ..) 1)
  | movw => exact .of_next h (.advance (State.setPair_kept ..) 1)
  | inp => exact .of_next h (.advance ((State.ioRead_kept ..).trans (State.setReg_kept ..)) 1)
  -- flags without registers
  | cp | cpc | cpi => exact .of_next h (State.compare_instrKept ..)
  | bst | sec | clc | sen | cln | sez | clz | cli | ses | cls | sev | clv | setT | clt | seh | clh =>
    exact .of_next h (.advance (State.setFlags_kept ..) 1)
  | bclr => exact .of_next h (.advance (State.setSregBit_kept ..) 1)
  | bset => exact .of_next h (.advance ((State.setSregBit_kept ..).trans (State.setInhibit_kept ..)) 1)
  | sei => exact .of_next h (.advance ((State.setFlags_kept ..).trans (State.setInhibit_kept ..)) 1)
  -- jumps, branches, skips
  | rjmp | ijmp | eijmp => exact .of_next h (.setPc (.refl s) _)
  | jmp => exact execJmp_instrKept h
  | brbs | brbc | breq | brne | brcs | brcc | brsh | brlo | brmi | brpl | brge | brlt | brhs | brhc | brts | brtc | brvs
  | brvc | brie | brid => exact .of_next h (State.branchIf_instrKept ..)
  | cpse | sbrc | sbrs => exact State.skip_instrKept (finish_eq_next.1 h)
  | sbic | sbis => exact State.skip_ioRead_instrKept (finish_eq_next.1 h)
  -- calls, returns, the stack
  | rcall | icall | eicall => exact State.callTo_instrKept (finish_eq_next.1 h)
  | call => exact execCall_instrKept h
  | ret => exact execRet_instrKept h
  | reti => exact State.returnFromInterrupt_instrKept (finish_eq_next.1 h)
  | push => exact .bind_advance State.push8_kept (finish_eq_next.1 h)
  | pop => exact execPop_instrKept h
  -- data memory and the I/O space
  | lds | ldsShort | ldX | ldY | lddY | ldZ | lddZ => exact State.load_instrKept (finish_eq_next.1 h)
  | ldXInc | ldYInc | ldZInc => exact State.loadInc_instrKept (finish_eq_next.1 h)
  | ldXDec | ldYDec | ldZDec => exact State.loadDec_instrKept (finish_eq_next.1 h)
  | sts | stsShort | stX | stY | stdY | stZ | stdZ => exact State.store_instrKept (finish_eq_next.1 h)
  | stXInc | stYInc | stZInc => exact State.storeInc_instrKept (finish_eq_next.1 h)
  | stXDec | stYDec | stZDec => exact State.storeDec_instrKept (finish_eq_next.1 h)
  | xch => exact execXch_instrKept h
  | out => exact .bind_advance State.ioWrite_kept (finish_eq_next.1 h)
  | sbi | cbi => exact .bind_advance State.ioWriteBit_kept (finish_eq_next.1 h)
  -- program memory
  | lpm | lpmZ | elpm | elpmZ => exact State.loadProgram_instrKept (finish_eq_next.1 h)
  | lpmZInc => exact execLpmZInc_instrKept h
  | elpmZInc => exact execElpmZInc_instrKept h
  | spm | spmZInc => cases h
  -- control
  | nop | wdr => exact .of_next h (.advance (.refl s) 1)
  | sleep => exact execSleep_instrKept h
  | brk => exact execBrk_instrKept h

/-! The agents and the interrupt entry. -/

/-- The programmer writes only the byte of a write in progress, which lies in the EEPROM (60_exceptions.md R417). -/
theorem State.programmerMove_inv {s : State} (h : s.Inv) : s.programmerMove.Inv := by
  obtain ⟨wf, pc, sram, flash, eeprom, eeWrite, rampz, eind, rising, sources⟩ := h
  rcases s.programmerMove_cases with ⟨hw, hm⟩ | ⟨w, hw, -, hm⟩ | ⟨w, hw, -, hm⟩ <;> rw [hm]
  · exact ⟨wf, pc, sram, flash, eeprom, eeWrite, rampz, eind, rising, sources⟩
  · have haddr : w.addr.toNat < s.dev.eepromBytes := by simpa [hw] using eeWrite
    exact ⟨wf, pc, sram, flash, Memory.wf_write eeprom w.data (Nat.zero_le _) haddr, rfl, rampz, eind, rising,
      sources⟩
  · have haddr : w.addr.toNat < s.dev.eepromBytes := by simpa [hw] using eeWrite
    exact ⟨wf, pc, sram, flash, eeprom, by simpa using haddr, rampz, eind, rising, sources⟩

theorem State.environmentMove_rising {s : State} (h : risingSources s.irq = true) :
    risingSources s.environmentMove.irq = true := by
  unfold State.environmentMove
  split
  · exact h
  · exact decide_eq_true (pairwise_foldr_insertRising (of_decide_eq_true h))

theorem State.environmentMove_sources {s : State} (h : s.irq.all (fun n => s.dev.envIrq.contains n) = true) :
    s.environmentMove.irq.all (fun n => s.dev.envIrq.contains n) = true := by
  simp only [List.all_eq_true, List.contains_iff_mem] at h ⊢
  intro n hn
  exact ((s.mem_environmentMove_irq n).2 hn).elim (h n) id

/-- The environment raises only sources of `ENV_IRQ`, in their order (R402). -/
theorem State.environmentMove_inv {s : State} (h : s.Inv) : s.environmentMove.Inv := by
  obtain ⟨wf, pc, sram, flash, eeprom, eeWrite, rampz, eind, rising, sources⟩ := h
  rw [State.environmentMove_state]
  exact ⟨wf, pc, sram, flash, eeprom, eeWrite, rampz, eind, State.environmentMove_rising rising,
    State.environmentMove_sources sources⟩

theorem State.agents_inv {s : State} (h : s.Inv) : s.agents.Inv :=
  State.environmentMove_inv (State.programmerMove_inv h)

/-- Taking a request back leaves a sublist of the stored ones. -/
theorem State.clearIrq_inv {s : State} (h : s.Inv) (n : Nat) : (s.clearIrq n).Inv := by
  obtain ⟨wf, pc, sram, flash, eeprom, eeWrite, rampz, eind, rising, sources⟩ := h
  unfold State.clearIrq
  split
  · exact ⟨wf, pc, sram, flash, eeprom, eeWrite, rampz, eind, rising, sources⟩
  · have hrising := (of_decide_eq_true rising).filter (fun m => decide (m ≠ n))
    refine ⟨wf, pc, sram, flash, eeprom, eeWrite, rampz, eind, decide_eq_true hrising, List.all_eq_true.2 ?_⟩
    intro m hm
    exact List.all_eq_true.1 sources m (List.mem_of_mem_filter hm)

/-- An interrupt entry keeps what an instruction keeps, and then takes its request back (R404). -/
theorem State.interruptEntry_eq_clearIrq {s t : State} {n : Nat} (h : s.interruptEntry n = .ok t) :
    ∃ u, InstrKept s u ∧ t = u.clearIrq n := by
  obtain ⟨u, hu, rfl⟩ := State.interruptEntry_eq_ok h
  have hawake : Kept s { u.setSregBit bitI false with sleeping := false, window := .closed } :=
    (State.pushPc_kept hu).trans (.of_eq rfl rfl rfl rfl rfl rfl rfl rfl)
  refine ⟨_, .setPc hawake (u.dev.vector n), ?_⟩
  unfold State.clearIrq
  split <;> rfl

theorem State.interruptEntry_inv {s t : State} {n : Nat} (h : s.Inv) (ht : s.interruptEntry n = .ok t) : t.Inv := by
  obtain ⟨u, hu, rfl⟩ := State.interruptEntry_eq_clearIrq ht
  exact State.clearIrq_inv (hu.inv h) n

/-- Settles O13, by the four things a step can do once the agents have moved: nothing, an interrupt entry, a wait, or
one instruction. -/
theorem invariantKept : Obligations.InvariantKept := by
  intro s t hs h
  have hagents : s.agents.Inv := State.agents_inv hs
  rcases step_eq_next h with ⟨-, rfl⟩ | ⟨n, -, hentry⟩ | ⟨-, -, rfl⟩ | ⟨-, -, i, -, hexec⟩
  · exact hagents
  · exact State.interruptEntry_inv (s := { s.agents with inhibit := false }) hagents hentry
  · exact hagents
  · exact (exec_instrKept hexec).inv hagents

end Sys2Proof.Machine
end

section
/-! O48, O14, O15: the state of 10_state.md. The general registers answer the data-space accesses to 0x00 … 0x1F, stated
once for a load and once for a store by the number of the address; reset meets the invariant because every launch of a
consistent device with canonical memories does. -/

namespace Sys2Proof.Machine

/-! The register file in the data space (10_state.md R31). -/

/-- A data address below 0x20 names the general register of the same number. -/
theorem setWidth_of_toNat_eq_reg {a : Word} {i : Reg} (h : a.toNat = i.toNat) : a.setWidth 5 = i := by
  apply BitVec.eq_of_toNat_eq
  rw [BitVec.toNat_setWidth, h, Nat.mod_eq_of_lt i.isLt]

theorem ofNat_toNat_reg (i : Reg) : (BitVec.ofNat 16 i.toNat : Word).toNat = i.toNat := by
  rw [BitVec.toNat_ofNat]; omega

theorem State.memRead_reg {s : State} {a : Word} {i : Reg} (h : a.toNat = i.toNat) :
    s.memRead a = .ok (s.reg i, s) :=
  Reads.memRead (.inl ⟨by omega, by rw [setWidth_of_toNat_eq_reg h], rfl⟩)

theorem State.memWrite_reg {s : State} {a : Word} {i : Reg} {v : Byte} (h : a.toNat = i.toNat) :
    s.memWrite a v = .ok (s.setReg i v) := by
  have hlow : a.toNat ≤ 0x1F := by omega
  rw [State.memWrite, if_pos hlow, setWidth_of_toNat_eq_reg h]

/-- A load answers when its read does; the converse is `State.load_eq_ok`. -/
theorem State.load_of_memRead {s u : State} {ea : Word} {v : Byte} (h : s.memRead ea = .ok (v, u)) (d : Reg)
    (n : PcAddr) : s.load d ea n = .ok ((u.setReg d v).advance n) := by
  rw [State.load, h]; rfl

/-- A store answers when its write does; the converse is `State.store_eq_ok`. -/
theorem State.store_of_memWrite {s u : State} {ea : Word} {r : Reg} (h : s.memWrite ea (s.reg r) = .ok u)
    (n : PcAddr) : s.store r ea n = .ok (u.advance n) := by
  rw [State.store, h]; rfl

theorem State.load_reg {s : State} {ea : Word} {i : Reg} (h : ea.toNat = i.toNat) (d : Reg) (n : PcAddr) :
    s.load d ea n = .ok ((s.setReg d (s.reg i)).advance n) :=
  State.load_of_memRead (State.memRead_reg h) d n

theorem State.store_reg {s : State} {ea : Word} {i : Reg} (h : ea.toNat = i.toNat) (r : Reg) (n : PcAddr) :
    s.store r ea n = .ok ((s.setReg i (s.reg r)).advance n) :=
  State.store_of_memWrite (State.memWrite_reg h) n

/-- An address register's value in numbers, from its two halves (10_state.md R32). -/
theorem State.ptr_toNat (s : State) (p : Ptr) :
    (s.ptr p).toNat = 256 * (s.reg (p.low + 1)).toNat + (s.reg p.low).toNat :=
  s.pair_toNat p.low

/-- With R27 zero, X addresses the register that R26 numbers. -/
theorem State.ptr_x_eq_reg {s : State} {i : Reg} (hhigh : s.reg 27 = 0) (hlow : (s.reg 26).toNat = i.toNat) :
    (s.ptr .x).toNat = i.toNat := by
  have hx : (s.ptr .x).toNat = 256 * (s.reg 27).toNat + (s.reg 26).toNat := s.ptr_toNat .x
  rw [hx, hhigh, hlow]; simp

/-! The instructions of O48, each by its meaning. -/

theorem exec_mov (d r : Reg) (s : State) : exec (.mov d r) s = .next ((s.setReg d (s.reg r)).advance 1) := rfl
theorem exec_lds (d : Reg) (k : Word) (s : State) : exec (.lds d k) s = finish (s.load d k 2) := rfl
theorem exec_sts (k : Word) (r : Reg) (s : State) : exec (.sts k r) s = finish (s.store r k 2) := rfl
theorem exec_ldX (d : Reg) (s : State) : exec (.ldX d) s = finish (s.load d (s.ptr .x) 1) := rfl
theorem exec_stX (r : Reg) (s : State) : exec (.stX r) s = finish (s.store r (s.ptr .x) 1) := rfl

/-- A register write followed by pc passing two words or one: the two ends differ in pc alone. -/
theorem State.setReg_advance_two_one (s : State) (d : Reg) (v : Byte) :
    let t := (s.setReg d v).advance 2
    let u := (s.setReg d v).advance 1
    t = { u with pc := t.pc } ∧ MovedBy s t 2 ∧ MovedBy s u 1 :=
  ⟨rfl, MovedBy.advance rfl rfl rfl, MovedBy.advance_one rfl rfl⟩

/-- Settles O48: each access finds the register that its address numbers, and then is MOV but for the words passed. -/
theorem generalRegistersAreDataSpace : Obligations.GeneralRegistersAreDataSpace := by
  intro s i r
  refine ⟨⟨_, _, ?lds, exec_mov r i s, s.setReg_advance_two_one r (s.reg i)⟩,
    ⟨_, _, ?sts, exec_mov i r s, s.setReg_advance_two_one i (s.reg r)⟩, fun hhigh hlow => ?x⟩
  case lds => rw [exec_lds, State.load_reg (ofNat_toNat_reg i)]; rfl
  case sts => rw [exec_sts, State.store_reg (ofNat_toNat_reg i)]; rfl
  case x =>
    have hx : (s.ptr .x).toNat = i.toNat := State.ptr_x_eq_reg hhigh hlow
    constructor
    · rw [exec_ldX, State.load_reg hx, exec_mov]; rfl
    · rw [exec_stX, State.store_reg hx, exec_mov]; rfl

/-! Reset (10_state.md R52). -/

/-- Whatever the consistent device and the canonical contents of its Flash and EEPROM, the launch meets the invariant:
pc, RAMPZ and EIND are 0, SRAM holds no byte, no write is in progress and no request is stored. -/
theorem State.launch_inv {c : Device} {flash eeprom : Memory} (hc : c.wf = true)
    (hflash : Memory.wf (some erasedByte) 0 (2 * c.flashWords) flash = true)
    (heeprom : Memory.wf (some erasedByte) 0 c.eepromBytes eeprom = true) : (State.launch c flash eeprom).Inv := by
  have hpc : (State.launch c flash eeprom).pc.toNat < 2 ^ c.pcBits := Nat.two_pow_pos c.pcBits
  exact ⟨hc, hpc, rfl, hflash, heeprom, rfl, BitVec.zero_and, BitVec.zero_and, rfl, rfl⟩

theorem Device.atmega32_wf : Device.atmega32.wf = true := by decide

/-- Settles O14: reset is a launch of the ATmega32 with erased memories. -/
theorem resetMeetsInvariant : Obligations.ResetMeetsInvariant :=
  State.launch_inv Device.atmega32_wf rfl rfl

/-- Settles O15: each conjunct is one field of `State.launch`. -/
theorem resetValues : Obligations.ResetValues := by
  intro c flash eeprom s
  exact ⟨rfl, rfl, rfl, rfl, rfl, rfl, rfl, rfl, rfl, rfl, rfl, rfl⟩

end Sys2Proof.Machine
end

section
/-! O16, O49: the memories of 20_memory.md. Once the other agents have moved, no processor step changes program memory,
the device parameters or the EEPROM, so a changed EEPROM is the programmer's doing. An access to the data space at an
I/O register's address is the access to that register, stated once for a load and once for a store. -/

namespace Sys2Proof.Machine

/-! What the processor leaves to the launch and to the programmer (20_memory.md R81, R87). -/

/-- Program memory, the device parameters and the EEPROM are the same. -/
def SameStores (s t : State) : Prop := t.flash = s.flash ∧ t.dev = s.dev ∧ t.eeprom = s.eeprom

theorem SameStores.refl (s : State) : SameStores s s := ⟨rfl, rfl, rfl⟩

theorem SameStores.trans {s t u : State} (h : SameStores s t) (k : SameStores t u) : SameStores s u := by
  obtain ⟨hflash, hdev, heeprom⟩ := h
  obtain ⟨kflash, kdev, keeprom⟩ := k
  exact ⟨kflash.trans hflash, kdev.trans hdev, keeprom.trans heeprom⟩

theorem InstrKept.sameStores {s t : State} (h : InstrKept s t) : SameStores s t := by
  obtain ⟨⟨⟨hdev, hflash, heeprom, -⟩, -⟩, -⟩ := h
  exact ⟨hflash, hdev, heeprom⟩

theorem State.clearIrq_sameStores (s : State) (n : Nat) : SameStores s (s.clearIrq n) := by
  unfold State.clearIrq
  split <;> exact ⟨rfl, rfl, rfl⟩

theorem State.interruptEntry_sameStores {s t : State} {n : Nat} (h : s.interruptEntry n = .ok t) :
    SameStores s t := by
  obtain ⟨u, hu, rfl⟩ := State.interruptEntry_eq_clearIrq h
  exact hu.sameStores.trans (u.clearIrq_sameStores n)

/-- After the agents' moves a step changes none of the three: whatever it takes back or ages first, it starts from
their values there. -/
theorem step_sameStores_agents {s t : State} (h : step s = .next t) : SameStores s.agents t := by
  rcases step_eq_next h with ⟨-, rfl⟩ | ⟨n, -, hentry⟩ | ⟨-, -, rfl⟩ | ⟨-, -, i, -, hexec⟩
  · exact .refl s.agents
  · exact State.interruptEntry_sameStores (s := { s.agents with inhibit := false }) hentry
  · exact ⟨rfl, rfl, rfl⟩
  · exact (exec_instrKept hexec).sameStores

theorem State.environmentMove_eeprom (s : State) : s.environmentMove.eeprom = s.eeprom := by
  rw [State.environmentMove_state]

/-- The agents change the EEPROM only by the end of a write (60_exceptions.md R417). -/
theorem State.agents_eeprom_cases (s : State) :
    s.agents.eeprom = s.eeprom ∨
    ∃ w, s.eeWrite = some w ∧ w.wait = 0 ∧ s.agents.eeprom = Memory.write s.eeprom w.addr.toNat w.data := by
  have hagents : s.agents.eeprom = s.programmerMove.eeprom := State.environmentMove_eeprom _
  rw [hagents]
  rcases s.programmerMove_cases with ⟨-, hm⟩ | ⟨w, hw, hwait, hm⟩ | ⟨w, -, -, hm⟩ <;> rw [hm]
  · exact .inl rfl
  · exact .inr ⟨w, hw, hwait, rfl⟩
  · exact .inl rfl

/-- Settles O16: the processor changes nothing of the three, and of the agents only the programmer changes the
EEPROM. -/
theorem programMemoryAndEepromAreGuarded : Obligations.ProgramMemoryAndEepromAreGuarded := by
  intro s t h
  obtain ⟨hflash, hdev, heeprom⟩ := step_sameStores_agents h
  refine ⟨?flash, ?dev, ?eeprom⟩
  case flash => rw [hflash, State.agents_state]
  case dev => rw [hdev, State.agents_state]
  case eeprom => rw [heeprom]; exact s.agents_eeprom_cases

/-! The I/O registers in the data space (20_memory.md R72). -/

theorem ofNat_add_eq_dataOfIo (A : IoAddr) : BitVec.ofNat 16 (A.toNat + 0x20) = dataOfIo A := by
  have hA : A.toNat < 64 := A.isLt
  apply BitVec.eq_of_toNat_eq
  rw [dataOfIo_toNat, BitVec.toNat_ofNat]
  omega

@[simp] theorem ioOfData_dataOfIo (A : IoAddr) : ioOfData (dataOfIo A) = A := by
  rw [ioOfData, dataOfIo, BitVec.add_sub_cancel, BitVec.setWidth_setWidth_of_le _ (by decide), BitVec.setWidth_eq]

theorem State.memRead_dataOfIo (s : State) (A : IoAddr) : s.memRead (dataOfIo A) = .ok (s.ioRead A) := by
  have hnum : (dataOfIo A).toNat = A.toNat + 32 := dataOfIo_toNat A
  have hA : A.toNat < 64 := A.isLt
  rw [State.memRead, if_neg (by omega), if_pos (by omega), ioOfData_dataOfIo]

theorem State.memWrite_dataOfIo (s : State) (A : IoAddr) (v : Byte) : s.memWrite (dataOfIo A) v = s.ioWrite A v := by
  have hnum : (dataOfIo A).toNat = A.toNat + 32 := dataOfIo_toNat A
  have hA : A.toNat < 64 := A.isLt
  rw [State.memWrite, if_neg (by omega), if_pos (by omega), ioOfData_dataOfIo]

theorem exec_inp (d : Reg) (A : IoAddr) (s : State) :
    exec (.inp d A) s = .next (((s.ioRead A).2.setReg d (s.ioRead A).1).advance 1) := rfl

theorem exec_out (A : IoAddr) (r : Reg) (s : State) :
    exec (.out A r) s = finish (s.ioWrite A (s.reg r) >>= fun u => .ok (u.advance 1)) := rfl

theorem exec_lds_dataOfIo (d : Reg) (A : IoAddr) (s : State) :
    exec (.lds d (dataOfIo A)) s = .next (((s.ioRead A).2.setReg d (s.ioRead A).1).advance 2) := by
  rw [exec_lds, State.load_of_memRead (s.memRead_dataOfIo A)]; rfl

theorem exec_sts_dataOfIo (A : IoAddr) (r : Reg) (s : State) :
    exec (.sts (dataOfIo A) r) s = finish (s.ioWrite A (s.reg r) >>= fun u => .ok (u.advance 2)) := by
  rw [exec_sts, State.store, State.memWrite_dataOfIo]

/-- A state with the pc of `s`, passed by two words or by one: the two ends differ in pc alone. -/
theorem State.advance_two_one {s x : State} (hdev : x.dev = s.dev) (hpc : x.pc = s.pc) :
    x.advance 2 = { x.advance 1 with pc := (x.advance 2).pc } ∧
      MovedBy s (x.advance 2) 2 ∧ MovedBy s (x.advance 1) 1 :=
  ⟨rfl, MovedBy.advance hdev hpc rfl, MovedBy.advance_one hdev hpc⟩

theorem State.ioRead_pc (s : State) (A : IoAddr) : (s.ioRead A).2.pc = s.pc := by
  rw [State.ioRead_state]

theorem State.ioRead_dev (s : State) (A : IoAddr) : (s.ioRead A).2.dev = s.dev := by
  rw [State.ioRead_state]

theorem IoFrame.pc {s t : State} (h : IoFrame s t) : t.pc = s.pc := by rw [h]

theorem IoFrame.dev {s t : State} (h : IoFrame s t) : t.dev = s.dev := by rw [h]

/-- Settles O49: at A + 0x20 the data space is the I/O space at A, so that LDS and IN share one read, and STS and OUT
one write, which both take or both refuse. -/
theorem ioRegistersAreDataSpace : Obligations.IoRegistersAreDataSpace := by
  intro s r A
  rw [ofNat_add_eq_dataOfIo, exec_lds_dataOfIo, exec_inp, exec_sts_dataOfIo, exec_out]
  refine ⟨⟨_, _, rfl, rfl, State.advance_two_one (s.ioRead_dev A) (s.ioRead_pc A)⟩, ?_⟩
  cases hwrite : s.ioWrite A (s.reg r) with
  | ok u =>
    have hframe : IoFrame s u := State.ioWrite_frame hwrite
    refine ⟨fun t ht => ?_, fun e he => nomatch he⟩
    cases ht
    exact ⟨_, rfl, State.advance_two_one hframe.dev hframe.pc⟩
  | error e => exact ⟨fun u hu => absurd (finish_eq_next.1 hu) nofun, fun _ he => he⟩

end Sys2Proof.Machine
end

section
/-! The instruction formats (30_encoding.md R102 … R106), for O1, O2 and O3. Of each format three things are said: which
opcode bits the decoder finds in its words, which operands it reads back from them, and that a word with these opcode
bits is the format's word of its own fields. -/

namespace Sys2Proof

open BitVec (extractLsb'_append_eq_of_le extractLsb'_append_eq_of_add_le extractLsb'_eq_self
  extractLsb'_append_extractLsb'_eq_extractLsb')

/-! Parts of a bit vector. -/

/-- A part of a part. -/
theorem extract_extract {n s k t j : Nat} (x : BitVec n) (h : t + j ≤ k) :
    (x.extractLsb' s k).extractLsb' t j = x.extractLsb' (s + t) j := by
  apply BitVec.eq_of_getLsbD_eq
  intro i hi
  have hk : t + i < k := by omega
  simp [hi, hk, Nat.add_assoc]

/-- Two adjacent parts make one. -/
theorem extract_join {n : Nat} {x : BitVec n} {s k j : Nat} {hi : BitVec j} {lo : BitVec k}
    (hhi : x.extractLsb' (s + k) j = hi) (hlo : x.extractLsb' s k = lo) : x.extractLsb' s (j + k) = hi ++ lo := by
  rw [← hhi, ← hlo, extractLsb'_append_extractLsb'_eq_extractLsb' rfl]

/-- A known part tells each part of it. -/
theorem extract_part {n : Nat} {x : BitVec n} {s k t j : Nat} {v : BitVec k} (hv : x.extractLsb' s k = v)
    (h : t + j ≤ k) : x.extractLsb' (s + t) j = v.extractLsb' t j := by
  rw [← hv, extract_extract x h]

/-- A nibble by its upper three bits and its lowest one: for the decoder's tests that reach over two fields. -/
theorem extract_eq_iff_split {n : Nat} {x : BitVec n} {s : Nat} {v : BitVec 4} :
    x.extractLsb' s 4 = v ↔
      x.extractLsb' (s + 1) 3 = v.extractLsb' 1 3 ∧ x.extractLsb' s 1 = v.extractLsb' 0 1 := by
  refine ⟨fun h => ⟨extract_part (t := 1) h (by decide), extract_part (t := 0) h (by decide)⟩, fun ⟨hhi, hlo⟩ => ?_⟩
  have hx : x.extractLsb' s (3 + 1) = v.extractLsb' (0 + 1) 3 ++ v.extractLsb' 0 1 := extract_join hhi hlo
  rw [extractLsb'_append_extractLsb'_eq_extractLsb' rfl] at hx
  exact hx.trans extractLsb'_eq_self

/-! The words that `encode` writes out in place of a format function. -/

/-- Formats M4 and MW: `oooo oooo dddd rrrr`. -/
def encNN (op : BitVec 8) (a b : BitVec 4) : Word := op ++ a ++ b

/-- Format J12: `oooo kkkk kkkk kkkk`. -/
def encJ12 (op : BitVec 4) (k : BitVec 12) : Word := op ++ k

/-- The first word of format J22: `1001 010k kkkk oook`. -/
def encJ22First (o : BitVec 3) (k : PcAddr) : Word :=
  0b1001010#7 ++ k.extractLsb' 17 5 ++ o ++ k.extractLsb' 16 1

theorem encode_movw (d r : Reg) :
    encode (.movw d r) = [encNN 0x01#8 (d.extractLsb' 1 4) (r.extractLsb' 1 4)] := rfl

theorem encode_muls (d r : Reg) :
    encode (.muls d r) = [encNN 0x02#8 (d.extractLsb' 0 4) (r.extractLsb' 0 4)] := rfl

theorem encode_rjmp (k : BitVec 12) : encode (.rjmp k) = [encJ12 0xC#4 k] := rfl
theorem encode_rcall (k : BitVec 12) : encode (.rcall k) = [encJ12 0xD#4 k] := rfl
theorem encode_jmp (k : PcAddr) : encode (.jmp k) = [encJ22First 0b110#3 k, k.extractLsb' 0 16] := rfl
theorem encode_call (k : PcAddr) : encode (.call k) = [encJ22First 0b111#3 k, k.extractLsb' 0 16] := rfl

/-! A register of a restricted range (10_state.md R33) from its field, and the range of what a field gives. -/

theorem append_low4_of_high {d : Reg} (h : d.high = true) : 0b1#1 ++ d.extractLsb' 0 4 = d := by
  revert d; decide

theorem append_low3_of_mid {d : Reg} (h : d.mid = true) : 0b10#2 ++ d.extractLsb' 0 3 = d := by
  revert d; decide

theorem append_pair_of_pairHigh {d : Reg} (h : d.pairHigh = true) : 0b11#2 ++ d.extractLsb' 1 2 ++ 0b0#1 = d := by
  revert d; decide

theorem append_even {d : Reg} (h : d.even = true) : d.extractLsb' 1 4 ++ 0b0#1 = d := by
  revert d; decide

theorem fieldReg4_high (w : Word) : (fieldReg4 w).high = true := by
  unfold fieldReg4; generalize w.extractLsb' 4 4 = x; revert x; decide

theorem fieldSrc4_high (w : Word) : (fieldSrc4 w).high = true := by
  unfold fieldSrc4; generalize w.extractLsb' 0 4 = x; revert x; decide

theorem fieldReg3_mid (w : Word) : (fieldReg3 w).mid = true := by
  unfold fieldReg3; generalize w.extractLsb' 4 3 = x; revert x; decide

theorem fieldSrc3_mid (w : Word) : (fieldSrc3 w).mid = true := by
  unfold fieldSrc3; generalize w.extractLsb' 0 3 = x; revert x; decide

theorem fieldPair_pairHigh (w : Word) : (fieldPair w).pairHigh = true := by
  unfold fieldPair; generalize w.extractLsb' 4 2 = x; revert x; decide

theorem fieldEven_even (w : Word) : (fieldEven w).even = true := by
  unfold fieldEven; generalize w.extractLsb' 4 4 = x; revert x; decide

theorem fieldSrcEven_even (w : Word) : (fieldSrcEven w).even = true := by
  unfold fieldSrcEven; generalize w.extractLsb' 0 4 = x; revert x; decide

/-! What the decoder reads from the words of each format. -/

@[simp] theorem encRR_opcode (op : BitVec 6) (d r : Reg) :
    (encRR op d r).extractLsb' 12 4 = op.extractLsb' 2 4 ∧ (encRR op d r).extractLsb' 10 2 = op.extractLsb' 0 2 := by
  simp (disch := decide) only [encRR, extractLsb'_append_eq_of_le, true_and]

@[simp] theorem encRR_fields (op : BitVec 6) (d r : Reg) :
    fieldReg (encRR op d r) = d ∧ fieldSrc (encRR op d r) = r := by
  simp (disch := decide) only [encRR, fieldReg, fieldSrc, extractLsb'_append_eq_of_le,
    extractLsb'_append_eq_of_add_le, extract_extract, extractLsb'_append_extractLsb'_eq_extractLsb']
  exact ⟨extractLsb'_eq_self, extractLsb'_eq_self⟩

@[simp] theorem encRI_opcode (op : BitVec 4) (d : Reg) (K : Byte) : (encRI op d K).extractLsb' 12 4 = op := by
  simp (disch := decide) only [encRI, extractLsb'_append_eq_of_le]
  exact extractLsb'_eq_self

theorem encRI_fields {d : Reg} (op : BitVec 4) (hd : d.high = true) (K : Byte) :
    fieldReg4 (encRI op d K) = d ∧ fieldImm8 (encRI op d K) = K := by
  simp (disch := decide) only [encRI, fieldReg4, fieldImm8, extractLsb'_append_eq_of_le,
    extractLsb'_append_eq_of_add_le, extract_extract, extractLsb'_append_extractLsb'_eq_extractLsb']
  exact ⟨append_low4_of_high hd, extractLsb'_eq_self⟩

@[simp] theorem encR1_opcode (op : BitVec 7) (d : Reg) (low : BitVec 4) :
    (encR1 op d low).extractLsb' 12 4 = op.extractLsb' 3 4 ∧ (encR1 op d low).extractLsb' 10 2 = op.extractLsb' 1 2 ∧
    (encR1 op d low).extractLsb' 9 3 = op.extractLsb' 0 3 ∧ (encR1 op d low).extractLsb' 9 1 = op.extractLsb' 0 1 ∧
    (encR1 op d low).extractLsb' 3 1 = low.extractLsb' 3 1 ∧ (encR1 op d low).extractLsb' 0 3 = low.extractLsb' 0 3 ∧
    (encR1 op d low).extractLsb' 0 4 = low := by
  simp (disch := decide) only [encR1, extractLsb'_append_eq_of_le, extractLsb'_append_eq_of_add_le, true_and]
  exact extractLsb'_eq_self

@[simp] theorem encR1_nibble (op : BitVec 7) (d : Reg) (low v : BitVec 4) :
    (encR1 op d low).extractLsb' 8 4 = v ↔
      op.extractLsb' 0 3 = v.extractLsb' 1 3 ∧ d.extractLsb' 4 1 = v.extractLsb' 0 1 := by
  simp (disch := decide) only [extract_eq_iff_split, encR1, extractLsb'_append_eq_of_le,
    extractLsb'_append_eq_of_add_le]

@[simp] theorem encR1_fields (op : BitVec 7) (d : Reg) (low : BitVec 4) : fieldReg (encR1 op d low) = d := by
  simp (disch := decide) only [encR1, fieldReg, extractLsb'_append_eq_of_le, extractLsb'_append_eq_of_add_le]
  exact extractLsb'_eq_self

@[simp] theorem encIW_opcode (op : BitVec 8) (d : Reg) (K : BitVec 6) :
    (encIW op d K).extractLsb' 12 4 = op.extractLsb' 4 4 ∧ (encIW op d K).extractLsb' 10 2 = op.extractLsb' 2 2 ∧
    (encIW op d K).extractLsb' 8 4 = op.extractLsb' 0 4 := by
  simp (disch := decide) only [encIW, extractLsb'_append_eq_of_le, true_and]

theorem encIW_fields {d : Reg} (op : BitVec 8) (hd : d.pairHigh = true) (K : BitVec 6) :
    fieldPair (encIW op d K) = d ∧ fieldImm6 (encIW op d K) = K := by
  simp (disch := decide) only [encIW, fieldPair, fieldImm6, extractLsb'_append_eq_of_le,
    extractLsb'_append_eq_of_add_le, extract_extract, extractLsb'_append_extractLsb'_eq_extractLsb']
  exact ⟨append_pair_of_pairHigh hd, extractLsb'_eq_self⟩

@[simp] theorem encM3_opcode (o7 o3 : BitVec 1) (d r : Reg) :
    (encM3 o7 o3 d r).extractLsb' 12 4 = 0 ∧ (encM3 o7 o3 d r).extractLsb' 10 2 = 0 ∧
    (encM3 o7 o3 d r).extractLsb' 8 2 = 0b11#2 ∧ (encM3 o7 o3 d r).extractLsb' 7 1 = o7 ∧
    (encM3 o7 o3 d r).extractLsb' 3 1 = o3 := by
  simp (disch := decide) only [encM3, extractLsb'_append_eq_of_le, extractLsb'_append_eq_of_add_le]
  exact ⟨rfl, rfl, rfl, extractLsb'_eq_self, extractLsb'_eq_self⟩

theorem encM3_fields (o7 o3 : BitVec 1) {d r : Reg} (hd : d.mid = true) (hr : r.mid = true) :
    fieldReg3 (encM3 o7 o3 d r) = d ∧ fieldSrc3 (encM3 o7 o3 d r) = r := by
  simp (disch := decide) only [encM3, fieldReg3, fieldSrc3, extractLsb'_append_eq_of_le,
    extractLsb'_append_eq_of_add_le, extract_extract]
  exact ⟨append_low3_of_mid hd, append_low3_of_mid hr⟩

@[simp] theorem encNN_opcode (op : BitVec 8) (a b : BitVec 4) :
    (encNN op a b).extractLsb' 12 4 = op.extractLsb' 4 4 ∧ (encNN op a b).extractLsb' 10 2 = op.extractLsb' 2 2 ∧
    (encNN op a b).extractLsb' 8 2 = op.extractLsb' 0 2 ∧ (encNN op a b).extractLsb' 4 4 = a ∧
    (encNN op a b).extractLsb' 0 4 = b := by
  simp (disch := decide) only [encNN, extractLsb'_append_eq_of_le, extractLsb'_append_eq_of_add_le, true_and]
  exact ⟨extractLsb'_eq_self, extractLsb'_eq_self⟩

@[simp] theorem encBR_opcode (op : BitVec 6) (s : BitVec 3) (k : BitVec 7) :
    (encBR op s k).extractLsb' 12 4 = op.extractLsb' 2 4 ∧ (encBR op s k).extractLsb' 10 2 = op.extractLsb' 0 2 := by
  simp (disch := decide) only [encBR, extractLsb'_append_eq_of_le, true_and]

@[simp] theorem encBR_fields (op : BitVec 6) (s : BitVec 3) (k : BitVec 7) :
    fieldBit (encBR op s k) = s ∧ fieldRel7 (encBR op s k) = k := by
  simp (disch := decide) only [encBR, fieldBit, fieldRel7, extractLsb'_append_eq_of_le,
    extractLsb'_append_eq_of_add_le]
  exact ⟨extractLsb'_eq_self, extractLsb'_eq_self⟩

@[simp] theorem encJ12_opcode (op : BitVec 4) (k : BitVec 12) :
    (encJ12 op k).extractLsb' 12 4 = op ∧ fieldRel12 (encJ12 op k) = k := by
  simp (disch := decide) only [encJ12, fieldRel12, extractLsb'_append_eq_of_le, extractLsb'_append_eq_of_add_le]
  exact ⟨extractLsb'_eq_self, extractLsb'_eq_self⟩

@[simp] theorem encJ22First_opcode (o : BitVec 3) (k : PcAddr) :
    (encJ22First o k).extractLsb' 12 4 = 0x9#4 ∧ (encJ22First o k).extractLsb' 10 2 = 0b01#2 ∧
    (encJ22First o k).extractLsb' 9 3 = 0b010#3 ∧ (encJ22First o k).extractLsb' 1 3 = o := by
  simp (disch := decide) only [encJ22First, extractLsb'_append_eq_of_le, extractLsb'_append_eq_of_add_le]
  exact ⟨rfl, rfl, rfl, extractLsb'_eq_self⟩

@[simp] theorem encJ22First_nibble (o : BitVec 3) (k : PcAddr) (v : BitVec 4) :
    ((encJ22First o k).extractLsb' 8 4 = v ↔
      0b010#3 = v.extractLsb' 1 3 ∧ k.extractLsb' 21 1 = v.extractLsb' 0 1) ∧
    ((encJ22First o k).extractLsb' 0 4 = v ↔ o = v.extractLsb' 1 3 ∧ k.extractLsb' 16 1 = v.extractLsb' 0 1) := by
  simp (disch := decide) only [extract_eq_iff_split, encJ22First, extractLsb'_append_eq_of_le,
    extractLsb'_append_eq_of_add_le, extract_extract]
  simp

@[simp] theorem encJ22First_fields (o : BitVec 3) (k : PcAddr) :
    fieldAbs22 (encJ22First o k) (k.extractLsb' 0 16) = k := by
  simp (disch := decide) only [encJ22First, fieldAbs22, extractLsb'_append_eq_of_le,
    extractLsb'_append_eq_of_add_le, extract_extract, extractLsb'_append_extractLsb'_eq_extractLsb']
  exact extractLsb'_eq_self

@[simp] theorem encRB_opcode (op : BitVec 7) (r : Reg) (b : BitVec 3) :
    (encRB op r b).extractLsb' 12 4 = op.extractLsb' 3 4 ∧ (encRB op r b).extractLsb' 10 2 = op.extractLsb' 1 2 ∧
    (encRB op r b).extractLsb' 9 2 = op.extractLsb' 0 2 ∧ (encRB op r b).extractLsb' 3 1 = 0 := by
  simp (disch := decide) only [encRB, extractLsb'_append_eq_of_le, extractLsb'_append_eq_of_add_le, true_and]
  rfl

@[simp] theorem encRB_fields (op : BitVec 7) (r : Reg) (b : BitVec 3) :
    fieldReg (encRB op r b) = r ∧ fieldBit (encRB op r b) = b := by
  simp (disch := decide) only [encRB, fieldReg, fieldBit, extractLsb'_append_eq_of_le,
    extractLsb'_append_eq_of_add_le]
  exact ⟨extractLsb'_eq_self, extractLsb'_eq_self⟩

@[simp] theorem encAB_opcode (op : BitVec 8) (A : BitVec 5) (b : BitVec 3) :
    (encAB op A b).extractLsb' 12 4 = op.extractLsb' 4 4 ∧ (encAB op A b).extractLsb' 10 2 = op.extractLsb' 2 2 ∧
    (encAB op A b).extractLsb' 8 4 = op.extractLsb' 0 4 := by
  simp (disch := decide) only [encAB, extractLsb'_append_eq_of_le, true_and]

@[simp] theorem encAB_fields (op : BitVec 8) (A : BitVec 5) (b : BitVec 3) :
    fieldIo5 (encAB op A b) = A ∧ fieldBit (encAB op A b) = b := by
  simp (disch := decide) only [encAB, fieldIo5, fieldBit, extractLsb'_append_eq_of_le,
    extractLsb'_append_eq_of_add_le]
  exact ⟨extractLsb'_eq_self, extractLsb'_eq_self⟩

@[simp] theorem encIO_opcode (op : BitVec 5) (A : IoAddr) (r : Reg) :
    (encIO op A r).extractLsb' 12 4 = op.extractLsb' 1 4 ∧ (encIO op A r).extractLsb' 11 1 = op.extractLsb' 0 1 := by
  simp (disch := decide) only [encIO, extractLsb'_append_eq_of_le, true_and]

@[simp] theorem encIO_fields (op : BitVec 5) (A : IoAddr) (r : Reg) :
    fieldReg (encIO op A r) = r ∧ fieldIo6 (encIO op A r) = A := by
  simp (disch := decide) only [encIO, fieldReg, fieldIo6, extractLsb'_append_eq_of_le,
    extractLsb'_append_eq_of_add_le, extract_extract, extractLsb'_append_extractLsb'_eq_extractLsb']
  exact ⟨extractLsb'_eq_self, extractLsb'_eq_self⟩

@[simp] theorem encLQ_opcode (store y : BitVec 1) (q : BitVec 6) (r : Reg) :
    (encLQ store y q r).extractLsb' 9 1 = store ∧ (encLQ store y q r).extractLsb' 3 1 = y := by
  simp (disch := decide) only [encLQ, extractLsb'_append_eq_of_le, extractLsb'_append_eq_of_add_le]
  exact ⟨extractLsb'_eq_self, extractLsb'_eq_self⟩

@[simp] theorem encLQ_fields (store y : BitVec 1) (q : BitVec 6) (r : Reg) :
    fieldReg (encLQ store y q r) = r ∧ fieldDisp (encLQ store y q r) = q := by
  simp (disch := decide) only [encLQ, fieldReg, fieldDisp, extractLsb'_append_eq_of_le,
    extractLsb'_append_eq_of_add_le, extract_extract, extractLsb'_append_extractLsb'_eq_extractLsb']
  exact ⟨extractLsb'_eq_self, extractLsb'_eq_self⟩

/-- Bit 5 of the displacement is bit 13 of the word, so that LDD and STD have two top nibbles (`10q0`). -/
theorem encLQ_top (store y : BitVec 1) (q : BitVec 6) (r : Reg) :
    (encLQ store y q r).extractLsb' 12 4 = 0x8#4 ∨ (encLQ store y q r).extractLsb' 12 4 = 0xA#4 := by
  have top : (encLQ store y q r).extractLsb' 12 4 = 0b10#2 ++ q.extractLsb' 5 1 ++ 0b0#1 := by
    simp (disch := decide) only [encLQ, extractLsb'_append_eq_of_le]
    exact extractLsb'_eq_self
  rw [top]
  generalize q.extractLsb' 5 1 = b
  revert b; decide

@[simp] theorem encLK7_opcode (op : BitVec 5) (k : BitVec 7) (d : Reg) :
    (encLK7 op k d).extractLsb' 12 4 = op.extractLsb' 1 4 ∧ (encLK7 op k d).extractLsb' 11 1 = op.extractLsb' 0 1 := by
  simp (disch := decide) only [encLK7, extractLsb'_append_eq_of_le, true_and]

theorem encLK7_fields (op : BitVec 5) (k : BitVec 7) {d : Reg} (hd : d.high = true) :
    fieldReg4 (encLK7 op k d) = d ∧ fieldAddr7 (encLK7 op k d) = k := by
  simp (disch := decide) only [encLK7, fieldReg4, fieldAddr7, extractLsb'_append_eq_of_le,
    extractLsb'_append_eq_of_add_le, extract_extract, extractLsb'_append_extractLsb'_eq_extractLsb']
  exact ⟨append_low4_of_high hd, extractLsb'_eq_self⟩

@[simp] theorem encSB_opcode (o : BitVec 1) (s : BitVec 3) :
    (encSB o s).extractLsb' 12 4 = 0x9#4 ∧ (encSB o s).extractLsb' 10 2 = 0b01#2 ∧
    (encSB o s).extractLsb' 8 4 = 0x4#4 ∧ (encSB o s).extractLsb' 9 3 = 0b010#3 ∧
    (encSB o s).extractLsb' 0 4 = 0x8#4 ∧ (encSB o s).extractLsb' 7 2 = 0b0#1 ++ o := by
  revert o s; decide

@[simp] theorem encSB_fields (o : BitVec 1) (s : BitVec 3) : fieldFlag (encSB o s) = s := by
  simp (disch := decide) only [encSB, fieldFlag, extractLsb'_append_eq_of_le, extractLsb'_append_eq_of_add_le]
  exact extractLsb'_eq_self

theorem fieldReg4_encNN {d : Reg} (op : BitVec 8) (hd : d.high = true) (b : BitVec 4) :
    fieldReg4 (encNN op (d.extractLsb' 0 4) b) = d := by
  simp [fieldReg4, append_low4_of_high hd]

theorem fieldSrc4_encNN {r : Reg} (op : BitVec 8) (hr : r.high = true) (a : BitVec 4) :
    fieldSrc4 (encNN op a (r.extractLsb' 0 4)) = r := by
  simp [fieldSrc4, append_low4_of_high hr]

theorem fieldEven_encNN {d : Reg} (op : BitVec 8) (hd : d.even = true) (b : BitVec 4) :
    fieldEven (encNN op (d.extractLsb' 1 4) b) = d := by
  simp [fieldEven, append_even hd]

theorem fieldSrcEven_encNN {r : Reg} (op : BitVec 8) (hr : r.even = true) (a : BitVec 4) :
    fieldSrcEven (encNN op a (r.extractLsb' 1 4)) = r := by
  simp [fieldSrcEven, append_even hr]

/-! A word from its opcode bits and its fields. -/

section
variable {w w2 : Word}

theorem encRR_of_opcode {op : BitVec 6} (hop : w.extractLsb' 10 6 = op) :
    encRR op (fieldReg w) (fieldSrc w) = w := by
  subst hop
  simp (disch := decide) only [encRR, fieldReg, fieldSrc, extractLsb'_append_eq_of_le, extractLsb'_append_eq_of_add_le,
    extract_extract, extractLsb'_append_extractLsb'_eq_extractLsb']
  exact extractLsb'_eq_self

theorem encRI_of_opcode {op : BitVec 4} (hop : w.extractLsb' 12 4 = op) :
    encRI op (fieldReg4 w) (fieldImm8 w) = w := by
  subst hop
  simp (disch := decide) only [encRI, fieldReg4, fieldImm8, extractLsb'_append_eq_of_le,
    extractLsb'_append_eq_of_add_le, extract_extract, extractLsb'_append_extractLsb'_eq_extractLsb']
  exact extractLsb'_eq_self

theorem encR1_of_opcode {op : BitVec 7} {low : BitVec 4} (hop : w.extractLsb' 9 7 = op)
    (hlow : w.extractLsb' 0 4 = low) : encR1 op (fieldReg w) low = w := by
  subst hop hlow
  simp (disch := decide) only [encR1, fieldReg, extractLsb'_append_extractLsb'_eq_extractLsb']
  exact extractLsb'_eq_self

theorem encIW_of_opcode {op : BitVec 8} (hop : w.extractLsb' 8 8 = op) :
    encIW op (fieldPair w) (fieldImm6 w) = w := by
  subst hop
  simp (disch := decide) only [encIW, fieldPair, fieldImm6, extractLsb'_append_eq_of_le,
    extractLsb'_append_eq_of_add_le, extract_extract, extractLsb'_append_extractLsb'_eq_extractLsb']
  exact extractLsb'_eq_self

theorem encM3_of_opcode {o7 o3 : BitVec 1} (hop : w.extractLsb' 8 8 = 0b00000011#8) (h7 : w.extractLsb' 7 1 = o7)
    (h3 : w.extractLsb' 3 1 = o3) : encM3 o7 o3 (fieldReg3 w) (fieldSrc3 w) = w := by
  subst h7 h3
  simp (disch := decide) only [encM3, ← hop, fieldReg3, fieldSrc3, extractLsb'_append_eq_of_add_le,
    extract_extract, extractLsb'_append_extractLsb'_eq_extractLsb']
  exact extractLsb'_eq_self

theorem encBR_of_opcode {op : BitVec 6} (hop : w.extractLsb' 10 6 = op) :
    encBR op (fieldBit w) (fieldRel7 w) = w := by
  subst hop
  simp (disch := decide) only [encBR, fieldBit, fieldRel7, extractLsb'_append_extractLsb'_eq_extractLsb']
  exact extractLsb'_eq_self

theorem encJ12_of_opcode {op : BitVec 4} (hop : w.extractLsb' 12 4 = op) : encJ12 op (fieldRel12 w) = w := by
  subst hop
  simp (disch := decide) only [encJ12, fieldRel12, extractLsb'_append_extractLsb'_eq_extractLsb']
  exact extractLsb'_eq_self

theorem encJ22First_of_opcode {o : BitVec 3} (hop : w.extractLsb' 9 7 = 0b1001010#7) (ho : w.extractLsb' 1 3 = o) :
    encJ22First o (fieldAbs22 w w2) = w ∧ (fieldAbs22 w w2).extractLsb' 0 16 = w2 := by
  subst ho
  simp (disch := decide) only [encJ22First, ← hop, fieldAbs22, extractLsb'_append_eq_of_le,
    extractLsb'_append_eq_of_add_le, extract_extract, extractLsb'_append_extractLsb'_eq_extractLsb']
  exact ⟨extractLsb'_eq_self, extractLsb'_eq_self⟩

theorem encRB_of_opcode {op : BitVec 7} (hop : w.extractLsb' 9 7 = op) (h3 : w.extractLsb' 3 1 = 0b0#1) :
    encRB op (fieldReg w) (fieldBit w) = w := by
  subst hop
  simp (disch := decide) only [encRB, ← h3, fieldReg, fieldBit, extractLsb'_append_extractLsb'_eq_extractLsb']
  exact extractLsb'_eq_self

theorem encAB_of_opcode {op : BitVec 8} (hop : w.extractLsb' 8 8 = op) :
    encAB op (fieldIo5 w) (fieldBit w) = w := by
  subst hop
  simp (disch := decide) only [encAB, fieldIo5, fieldBit, extractLsb'_append_extractLsb'_eq_extractLsb']
  exact extractLsb'_eq_self

theorem encIO_of_opcode {op : BitVec 5} (hop : w.extractLsb' 11 5 = op) :
    encIO op (fieldIo6 w) (fieldReg w) = w := by
  subst hop
  simp (disch := decide) only [encIO, fieldReg, fieldIo6, extractLsb'_append_eq_of_le,
    extractLsb'_append_eq_of_add_le, extract_extract, extractLsb'_append_extractLsb'_eq_extractLsb']
  exact extractLsb'_eq_self

theorem encLQ_of_opcode {store y : BitVec 1} (hop : w.extractLsb' 14 2 = 0b10#2) (h12 : w.extractLsb' 12 1 = 0b0#1)
    (hstore : w.extractLsb' 9 1 = store) (hy : w.extractLsb' 3 1 = y) :
    encLQ store y (fieldDisp w) (fieldReg w) = w := by
  subst hstore hy
  simp (disch := decide) only [encLQ, ← hop, ← h12, fieldReg, fieldDisp, extractLsb'_append_eq_of_le,
    extractLsb'_append_eq_of_add_le, extract_extract, extractLsb'_append_extractLsb'_eq_extractLsb']
  exact extractLsb'_eq_self

theorem encLK7_of_opcode {op : BitVec 5} (hop : w.extractLsb' 11 5 = op) :
    encLK7 op (fieldAddr7 w) (fieldReg4 w) = w := by
  subst hop
  simp (disch := decide) only [encLK7, fieldReg4, fieldAddr7, extractLsb'_append_eq_of_le,
    extractLsb'_append_eq_of_add_le, extract_extract, extractLsb'_append_extractLsb'_eq_extractLsb']
  exact extractLsb'_eq_self

theorem encSB_of_opcode {o : BitVec 1} (hop : w.extractLsb' 8 8 = 0b10010100#8) (ho : w.extractLsb' 7 1 = o)
    (hlow : w.extractLsb' 0 4 = 0b1000#4) : encSB o (fieldFlag w) = w := by
  subst ho
  simp (disch := decide) only [encSB, ← hop, ← hlow, fieldFlag, extractLsb'_append_extractLsb'_eq_extractLsb']
  exact extractLsb'_eq_self

theorem encNN_regs4_of_opcode {op : BitVec 8} (hop : w.extractLsb' 8 8 = op) :
    encNN op ((fieldReg4 w).extractLsb' 0 4) ((fieldSrc4 w).extractLsb' 0 4) = w := by
  subst hop
  simp (disch := decide) only [encNN, fieldReg4, fieldSrc4, extractLsb'_append_eq_of_add_le,
    extract_extract, extractLsb'_append_extractLsb'_eq_extractLsb']
  exact extractLsb'_eq_self

theorem encNN_evenRegs_of_opcode {op : BitVec 8} (hop : w.extractLsb' 8 8 = op) :
    encNN op ((fieldEven w).extractLsb' 1 4) ((fieldSrcEven w).extractLsb' 1 4) = w := by
  subst hop
  simp (disch := decide) only [encNN, fieldEven, fieldSrcEven, extractLsb'_append_eq_of_le,
    extract_extract, extractLsb'_append_extractLsb'_eq_extractLsb']
  exact extractLsb'_eq_self

end

end Sys2Proof
end

section
/-! O2: encoding what was decoded. The decoder is followed along its own branches: `AnswerEncodesBack` holds of a branch
when it holds of both sides, and each answer is a word of its format by the opcode bits that the branch has tested. -/

namespace Sys2Proof

/-- What O2 says of one answer. -/
def EncodesBack (core : CoreKind) (w w2 : Word) (i : Instr) : Prop :=
  i.wf = true ∧ i.base core = i ∧ encode i = (if isTwoWord w then [w, w2] else [w])

/-- Whatever `o` answers encodes back. -/
def AnswerEncodesBack (core : CoreKind) (w w2 : Word) (o : Option Instr) : Prop :=
  ∀ i, o = some i → EncodesBack core w w2 i

section
variable {core : CoreKind} {w w2 : Word}

theorem AnswerEncodesBack.none : AnswerEncodesBack core w w2 none := nofun

theorem AnswerEncodesBack.some {i : Instr} (h : EncodesBack core w w2 i) : AnswerEncodesBack core w w2 (some i) := by
  rintro _ ⟨⟩; exact h

theorem AnswerEncodesBack.ite {p : Prop} [Decidable p] {x y : Option Instr} (hx : p → AnswerEncodesBack core w w2 x)
    (hy : ¬ p → AnswerEncodesBack core w w2 y) : AnswerEncodesBack core w w2 (if p then x else y) := by
  split
  · exact hx ‹_›
  · exact hy ‹_›

theorem EncodesBack.oneWord {i : Instr} {v : Word} (htwo : isTwoWord w = false) (hv : v = w)
    (hwf : i.wf = true := by rfl) (hbase : i.base core = i := by rfl) (henc : encode i = [v] := by rfl) :
    EncodesBack core w w2 i := by
  subst hv
  exact ⟨hwf, hbase, by rw [henc, htwo]; rfl⟩

theorem EncodesBack.twoWords {i : Instr} {v v2 : Word} (htwo : isTwoWord w = true) (hv : v = w) (hv2 : v2 = w2)
    (hwf : i.wf = true := by rfl) (hbase : i.base core = i := by rfl) (henc : encode i = [v, v2] := by rfl) :
    EncodesBack core w w2 i := by
  subst hv hv2
  exact ⟨hwf, hbase, by rw [henc, htwo]; rfl⟩

/-- A branch that answers an instruction. -/
theorem AnswerEncodesBack.iteSome {p : Prop} [Decidable p] {i : Instr} {y : Option Instr}
    (hx : p → EncodesBack core w w2 i) (hy : ¬ p → AnswerEncodesBack core w w2 y) :
    AnswerEncodesBack core w w2 (if p then Option.some i else y) := .ite (fun h => .some (hx h)) hy

/-! Whether a word is the first of two, by its group of the opcode map (R101, R107). -/

theorem isTwoWord_eq_false (h6 : w.extractLsb' 10 6 ≠ 0b100100#6)
    (h7 : w.extractLsb' 9 7 ≠ 0b1001010#7) : isTwoWord w = false := by
  simp [isTwoWord, h6, h7]

theorem isTwoWord_of_top (h : w.extractLsb' 12 4 ≠ 0x9#4) : isTwoWord w = false :=
  isTwoWord_eq_false (fun e => h (extract_part (t := 2) e (by decide)))
    fun e => h (extract_part (t := 3) e (by decide))

theorem isTwoWord_load (h : w.extractLsb' 10 6 = 0b100100#6) : isTwoWord w = (w.extractLsb' 0 4 == 0x0#4) := by
  have h1 : w.extractLsb' 9 7 ≠ 0b1001010#7 := fun e =>
    absurd (h.symm.trans (extract_part (t := 1) e (by decide))) (by decide)
  simp [isTwoWord, h, h1]

theorem isTwoWord_oneReg (h : w.extractLsb' 9 7 = 0b1001010#7) : isTwoWord w = (w.extractLsb' 2 2 == 0b11#2) := by
  have h1 : w.extractLsb' 10 6 = 0b100101#6 := extract_part (t := 1) h (by decide)
  simp [isTwoWord, h, h1]

/-! What is left when the other values of a field are excluded. -/

theorem bit_eq_one : ∀ {v : BitVec 1}, v ≠ 0b0#1 → v = 0b1#1 := by decide

theorem bit_eq_zero : ∀ {v : BitVec 1}, v ≠ 0b1#1 → v = 0b0#1 := by decide

theorem bits2_eq_zero : ∀ {v : BitVec 2}, v ≠ 0b01#2 → v ≠ 0b10#2 → v ≠ 0b11#2 → v = 0b00#2 := by decide

theorem bits2_eq_three : ∀ {v : BitVec 2}, v ≠ 0b00#2 → v ≠ 0b01#2 → v ≠ 0b10#2 → v = 0b11#2 := by decide

theorem bits2_high_eq_one : ∀ {v : BitVec 2}, v ≠ 0b00#2 → v ≠ 0b01#2 → v.extractLsb' 1 1 = 0b1#1 := by decide

/-! The groups of the opcode map (R107). -/

theorem decode0_encodesBack (htop : w.extractLsb' 12 4 = 0x0#4) : AnswerEncodesBack core w w2 (decode0 w) := by
  have one : isTwoWord w = false := isTwoWord_of_top (by rw [htop]; decide)
  have even : ((fieldEven w).even && (fieldSrcEven w).even) = true :=
    Bool.and_eq_true_iff.2 ⟨fieldEven_even w, fieldSrcEven_even w⟩
  have high : ((fieldReg4 w).high && (fieldSrc4 w).high) = true :=
    Bool.and_eq_true_iff.2 ⟨fieldReg4_high w, fieldSrc4_high w⟩
  have mid : ((fieldReg3 w).mid && (fieldSrc3 w).mid) = true :=
    Bool.and_eq_true_iff.2 ⟨fieldReg3_mid w, fieldSrc3_mid w⟩
  unfold decode0
  refine .iteSome (fun h => .oneWord one (encRR_of_opcode (extract_join htop h))) fun h1 => ?_
  refine .iteSome (fun h => .oneWord one (encRR_of_opcode (extract_join htop h))) fun h2 => ?_
  refine .iteSome (fun h => .oneWord one (encRR_of_opcode (extract_join htop h))) fun h3 => ?_
  have hop : w.extractLsb' 10 6 = 0b000000#6 := extract_join htop (bits2_eq_zero h1 h2 h3)
  refine .iteSome (fun h => .oneWord one (encNN_evenRegs_of_opcode (extract_join hop h)) even) fun _ => ?_
  refine .iteSome (fun h => .oneWord one (encNN_regs4_of_opcode (extract_join hop h)) high) fun _ => ?_
  refine .ite (fun h => ?m3) fun _ => .iteSome (fun h => .oneWord one h.symm) fun _ => .none
  have m3 {o7 o3 : BitVec 1} := encM3_of_opcode (o7 := o7) (o3 := o3) (extract_join hop h)
  exact .ite
    (fun h7 => .iteSome (fun h3 => .oneWord one (m3 h7 h3) mid)
      fun h3 => .some (.oneWord one (m3 h7 (bit_eq_one h3)) mid))
    fun h7 => .iteSome (fun h3 => .oneWord one (m3 (bit_eq_one h7) h3) mid)
      fun h3 => .some (.oneWord one (m3 (bit_eq_one h7) (bit_eq_one h3)) mid)

theorem decode1_encodesBack (htop : w.extractLsb' 12 4 = 0x1#4) : AnswerEncodesBack core w w2 (decode1 w) := by
  have one : isTwoWord w = false := isTwoWord_of_top (by rw [htop]; decide)
  unfold decode1
  exact .iteSome (fun h => .oneWord one (encRR_of_opcode (extract_join htop h))) fun h0 =>
    .iteSome (fun h => .oneWord one (encRR_of_opcode (extract_join htop h))) fun h1 =>
    .iteSome (fun h => .oneWord one (encRR_of_opcode (extract_join htop h))) fun h2 =>
    .some (.oneWord one (encRR_of_opcode (extract_join htop (bits2_eq_three h0 h1 h2))))

theorem decode2_encodesBack (htop : w.extractLsb' 12 4 = 0x2#4) : AnswerEncodesBack core w w2 (decode2 w) := by
  have one : isTwoWord w = false := isTwoWord_of_top (by rw [htop]; decide)
  unfold decode2
  exact .iteSome (fun h => .oneWord one (encRR_of_opcode (extract_join htop h))) fun h0 =>
    .iteSome (fun h => .oneWord one (encRR_of_opcode (extract_join htop h))) fun h1 =>
    .iteSome (fun h => .oneWord one (encRR_of_opcode (extract_join htop h))) fun h2 =>
    .some (.oneWord one (encRR_of_opcode (extract_join htop (bits2_eq_three h0 h1 h2))))

theorem decodeDisp_encodesBack (hop : w.extractLsb' 14 2 = 0b10#2) (h12 : w.extractLsb' 12 1 = 0b0#1)
    (one : isTwoWord w = false) : AnswerEncodesBack core w w2 (decodeDisp w) := by
  unfold decodeDisp
  have lq {store y : BitVec 1} := encLQ_of_opcode (store := store) (y := y) hop h12
  exact .ite
    (fun h9 => .iteSome (fun h3 => .oneWord one (lq h9 h3)) fun h3 => .some (.oneWord one (lq h9 (bit_eq_zero h3))))
    fun h9 => .iteSome (fun h3 => .oneWord one (lq (bit_eq_one h9) h3))
      fun h3 => .some (.oneWord one (lq (bit_eq_one h9) (bit_eq_zero h3)))

theorem decode8Reduced_encodesBack (htop : w.extractLsb' 12 4 = 0x8#4) :
    AnswerEncodesBack .reduced w w2 (decode8Reduced w) := by
  have one : isTwoWord w = false := isTwoWord_of_top (by rw [htop]; decide)
  unfold decode8Reduced
  refine .ite (fun ⟨h10, h0⟩ => ?_) fun _ => .none
  have r1 {o y : BitVec 1} (h9 : w.extractLsb' 9 1 = o) (h3 : w.extractLsb' 3 1 = y) :=
    encR1_of_opcode (extract_join (extract_join htop h10) h9) (extract_join h3 h0)
  exact .ite
    (fun h9 => .iteSome (fun h3 => .oneWord one (r1 h9 h3)) fun h3 => .some (.oneWord one (r1 h9 (bit_eq_zero h3))))
    fun h9 => .iteSome (fun h3 => .oneWord one (r1 (bit_eq_one h9) h3))
      fun h3 => .some (.oneWord one (r1 (bit_eq_one h9) (bit_eq_zero h3)))

theorem decode10Reduced_encodesBack (htop : w.extractLsb' 12 4 = 0xA#4) :
    AnswerEncodesBack .reduced w w2 (decode10Reduced w) := by
  have one : isTwoWord w = false := isTwoWord_of_top (by rw [htop]; decide)
  unfold decode10Reduced
  exact .iteSome (fun h => .oneWord one (encLK7_of_opcode (extract_join htop h)) (fieldReg4_high w))
    fun h => .some (.oneWord one (encLK7_of_opcode (extract_join htop (bit_eq_one h))) (fieldReg4_high w))

theorem decodeLoads_encodesBack (hop : w.extractLsb' 9 7 = 0b1001000#7) :
    AnswerEncodesBack core w w2 (decodeLoads w w2) := by
  have two : isTwoWord w = (w.extractLsb' 0 4 == 0x0#4) := isTwoWord_load (extract_part (t := 1) hop (by decide))
  have r1 {low : BitVec 4} := encR1_of_opcode (low := low) hop
  unfold decodeLoads
  refine .iteSome (fun h => .twoWords (by rw [two, h]; rfl) (r1 h) rfl) fun _ => ?_
  iterate 12 refine .iteSome (fun h => .oneWord (by rw [two, h]; rfl) (r1 h)) fun _ => ?_
  exact .none

theorem decodeStores_encodesBack (hop : w.extractLsb' 9 7 = 0b1001001#7) :
    AnswerEncodesBack core w w2 (decodeStores w w2) := by
  have two : isTwoWord w = (w.extractLsb' 0 4 == 0x0#4) := isTwoWord_load (extract_part (t := 1) hop (by decide))
  have r1 {low : BitVec 4} := encR1_of_opcode (low := low) hop
  unfold decodeStores
  refine .iteSome (fun h => .twoWords (by rw [two, h]; rfl) (r1 h) rfl) fun _ => ?_
  iterate 9 refine .iteSome (fun h => .oneWord (by rw [two, h]; rfl) (r1 h)) fun _ => ?_
  exact .none

/-- A word of the fixed group, from its four parts. -/
theorem eq_of_fixed {b8 : BitVec 1} {mid low : BitVec 4} (hop : w.extractLsb' 9 7 = 0b1001010#7)
    (h8 : w.extractLsb' 8 1 = b8) (hmid : w.extractLsb' 4 4 = mid) (hlow : w.extractLsb' 0 4 = low) :
    0b1001010#7 ++ b8 ++ mid ++ low = w := by
  have h : w.extractLsb' 0 (7 + 1 + 4 + 4) = _ := extract_join (extract_join (extract_join hop h8) hmid) hlow
  exact h.symm.trans BitVec.extractLsb'_eq_self

theorem decodeFixed8_encodesBack (hop : w.extractLsb' 9 7 = 0b1001010#7) (hlow : w.extractLsb' 0 4 = 0x8#4) :
    AnswerEncodesBack core w w2 (decodeFixed8 w) := by
  have one : isTwoWord w = false := by
    rw [isTwoWord_oneReg hop, show w.extractLsb' 2 2 = 0b10#2 from extract_part (t := 2) hlow (by decide)]; rfl
  unfold decodeFixed8
  have sb {v : BitVec 2} (h : w.extractLsb' 7 2 = v) (hv : v.extractLsb' 1 1 = 0b0#1) :=
    encSB_of_opcode (extract_join hop ((extract_part (t := 1) h (by decide)).trans hv))
      (extract_part (t := 0) h (by decide)) hlow
  refine .iteSome (fun h => .oneWord one (sb h rfl)) fun h0 => ?_
  refine .iteSome (fun h => .oneWord one (sb h rfl)) fun h1 => ?_
  have h8 : w.extractLsb' 8 1 = 0b1#1 := (extract_part (t := 1) rfl (by decide)).trans (bits2_high_eq_one h0 h1)
  iterate 9 refine .iteSome (fun h => .oneWord one (eq_of_fixed hop h8 h hlow)) fun _ => ?_
  exact .none

theorem decodeFixed9_encodesBack (hop : w.extractLsb' 9 7 = 0b1001010#7) (hlow : w.extractLsb' 0 4 = 0x9#4) :
    AnswerEncodesBack core w w2 (decodeFixed9 w) := by
  have one : isTwoWord w = false := by
    rw [isTwoWord_oneReg hop, show w.extractLsb' 2 2 = 0b10#2 from extract_part (t := 2) hlow (by decide)]; rfl
  unfold decodeFixed9
  have fixed {v : BitVec 5} (h : w.extractLsb' 4 5 = v) :=
    eq_of_fixed hop (extract_part (t := 4) h (by decide)) (extract_part (t := 0) h (by decide)) hlow
  iterate 4 refine .iteSome (fun h => .oneWord one (fixed h)) fun _ => ?_
  exact .none

theorem decodeOneReg_encodesBack (hop : w.extractLsb' 9 7 = 0b1001010#7) :
    AnswerEncodesBack core w w2 (decodeOneReg w w2) := by
  have one {v : BitVec 4} (h : w.extractLsb' 0 4 = v) (hv : v.extractLsb' 2 2 ≠ 0b11#2) : isTwoWord w = false := by
    rw [isTwoWord_oneReg hop]
    exact beq_false_of_ne fun e => hv ((extract_part (t := 2) h (by decide)).symm.trans e)
  have two {o : BitVec 3} (h : w.extractLsb' 1 3 = o) (ho : o.extractLsb' 1 2 = 0b11#2) : isTwoWord w = true := by
    rw [isTwoWord_oneReg hop, show w.extractLsb' 2 2 = _ from extract_part (t := 1) h (by decide), ho]; rfl
  have r1 {low : BitVec 4} := encR1_of_opcode (low := low) hop
  unfold decodeOneReg
  iterate 7 refine .iteSome (fun h => .oneWord (one h (by decide)) (r1 h)) fun _ => ?_
  refine .ite (fun h => decodeFixed8_encodesBack hop h) fun _ => ?_
  refine .ite (fun h => decodeFixed9_encodesBack hop h) fun _ => ?_
  refine .iteSome (fun h => .oneWord (one h (by decide)) (r1 h)) fun _ => ?_
  have j22 {o : BitVec 3} (h : w.extractLsb' 1 3 = o) := encJ22First_of_opcode (w2 := w2) hop h
  iterate 2 refine .iteSome (fun h => .twoWords (two h rfl) (j22 h).1 (j22 h).2) fun _ => ?_
  exact .none

/-- Bits 11 … 8 of a `1001 …` word sort it into MUL, ADIW, SBIW, CBI, SBIC, SBI, SBIS, the loads, the stores and the
one-register group. -/
theorem nibble_groups : ∀ v : BitVec 4,
    v.extractLsb' 2 2 = 0b11#2 ∨ v = 0x6#4 ∨ v = 0x7#4 ∨ v = 0x8#4 ∨ v = 0x9#4 ∨ v = 0xA#4 ∨ v = 0xB#4 ∨
    v.extractLsb' 1 3 = 0b000#3 ∨ v.extractLsb' 1 3 = 0b001#3 ∨ v.extractLsb' 1 3 = 0b010#3 := by
  decide

theorem decode9_encodesBack (htop : w.extractLsb' 12 4 = 0x9#4) : AnswerEncodesBack core w w2 (decode9 w w2) := by
  unfold decode9
  have one {v : BitVec 4} (h : w.extractLsb' 8 4 = v) (hv : v.extractLsb' 2 2 ≠ 0b00#2)
      (hv' : v.extractLsb' 1 3 ≠ 0b010#3) : isTwoWord w = false :=
    isTwoWord_eq_false
      (fun e => hv ((extract_part (t := 2) h (by decide)).symm.trans (extract_part (t := 0) e (by decide))))
      (fun e => hv' ((extract_part (t := 1) h (by decide)).symm.trans (extract_part (t := 0) e (by decide))))
  have oneMul (h : w.extractLsb' 10 2 = 0b11#2) : isTwoWord w = false :=
    isTwoWord_eq_false
      (fun e => absurd (h.symm.trans (extract_part (t := 0) e (by decide))) (by decide))
      (fun e => absurd (h.symm.trans (extract_part (t := 1) e (by decide))) (by decide))
  have iw {v : BitVec 4} (h : w.extractLsb' 8 4 = v) := encIW_of_opcode (extract_join htop h)
  have ab {v : BitVec 4} (h : w.extractLsb' 8 4 = v) := encAB_of_opcode (extract_join htop h)
  have pair : (fieldPair w).pairHigh = true := fieldPair_pairHigh w
  refine .iteSome (fun h => .oneWord (oneMul h) (encRR_of_opcode (extract_join htop h))) fun hmul => ?_
  refine .iteSome (fun h => .oneWord (one h (by decide) (by decide)) (iw h) pair) fun h6 => ?_
  refine .iteSome (fun h => .oneWord (one h (by decide) (by decide)) (iw h) pair) fun h7 => ?_
  refine .iteSome (fun h => .oneWord (one h (by decide) (by decide)) (ab h)) fun h8 => ?_
  refine .iteSome (fun h => .oneWord (one h (by decide) (by decide)) (ab h)) fun h9 => ?_
  refine .iteSome (fun h => .oneWord (one h (by decide) (by decide)) (ab h)) fun hA => ?_
  refine .iteSome (fun h => .oneWord (one h (by decide) (by decide)) (ab h)) fun hB => ?_
  refine .ite (fun h => decodeLoads_encodesBack (extract_join htop h)) fun hload => ?_
  refine .ite (fun h => decodeStores_encodesBack (extract_join htop h)) fun hstore => ?_
  have top2 : w.extractLsb' 10 2 = (w.extractLsb' 8 4).extractLsb' 2 2 := by rw [extract_extract w (by decide)]
  have top3 : w.extractLsb' 9 3 = (w.extractLsb' 8 4).extractLsb' 1 3 := by rw [extract_extract w (by decide)]
  rw [top2] at hmul
  rw [top3] at hload hstore
  have hop : w.extractLsb' 9 3 = 0b010#3 := by
    rw [top3]
    simpa only [hmul, h6, h7, h8, h9, hA, hB, hload, hstore, false_or] using nibble_groups (w.extractLsb' 8 4)
  exact decodeOneReg_encodesBack (extract_join htop hop)

theorem decode15_encodesBack (htop : w.extractLsb' 12 4 = 0xF#4) : AnswerEncodesBack core w w2 (decode15 w) := by
  have one : isTwoWord w = false := isTwoWord_of_top (by rw [htop]; decide)
  unfold decode15
  refine .iteSome (fun h => .oneWord one (encBR_of_opcode (extract_join htop h))) fun h0 => ?_
  refine .iteSome (fun h => .oneWord one (encBR_of_opcode (extract_join htop h))) fun h1 => ?_
  refine .ite (fun _ => .none) fun h3 => ?_
  have h11 : w.extractLsb' 11 1 = 0b1#1 :=
    (extract_part (s := 10) (t := 1) rfl (by decide)).trans (bits2_high_eq_one h0 h1)
  have rb {v : BitVec 2} (h : w.extractLsb' 9 2 = v) :=
    encRB_of_opcode (extract_join (extract_join htop h11) h) (bit_eq_zero h3)
  exact .iteSome (fun h => .oneWord one (rb h)) fun h0 => .iteSome (fun h => .oneWord one (rb h)) fun h1 =>
    .iteSome (fun h => .oneWord one (rb h)) fun h2 => .some (.oneWord one (rb (bits2_eq_three h0 h1 h2)))

theorem nibble_cases : ∀ v : BitVec 4, v = 0x0#4 ∨ v = 0x1#4 ∨ v = 0x2#4 ∨ v = 0x3#4 ∨ v = 0x4#4 ∨ v = 0x5#4 ∨
    v = 0x6#4 ∨ v = 0x7#4 ∨ v = 0x8#4 ∨ v = 0x9#4 ∨ v = 0xA#4 ∨ v = 0xB#4 ∨ v = 0xC#4 ∨ v = 0xD#4 ∨ v = 0xE#4 ∨
    v = 0xF#4 := by decide

theorem decode_encodesBack : AnswerEncodesBack core w w2 (decode core w w2) := by
  have one {v : BitVec 4} (h : w.extractLsb' 12 4 = v) (hv : v ≠ 0x9#4) : isTwoWord w = false :=
    isTwoWord_of_top (by rw [h]; exact hv)
  have disp {v : BitVec 4} (h : w.extractLsb' 12 4 = v) (hv : v.extractLsb' 2 2 = 0b10#2)
      (hv' : v.extractLsb' 0 1 = 0b0#1) : AnswerEncodesBack .classic w w2 (decodeDisp w) :=
    decodeDisp_encodesBack ((extract_part (t := 2) h (by decide)).trans hv)
      ((extract_part (t := 0) h (by decide)).trans hv') (one h (by rintro rfl; revert hv'; decide))
  unfold decode
  refine .ite decode0_encodesBack fun _ => ?_
  refine .ite decode1_encodesBack fun _ => ?_
  refine .ite decode2_encodesBack fun _ => ?_
  iterate 5 refine .iteSome (fun h => .oneWord (one h (by decide)) (encRI_of_opcode h) (fieldReg4_high w)) fun _ => ?_
  refine .ite (fun h => ?top8) fun _ => .ite decode9_encodesBack fun _ => ?_
  case top8 =>
    cases core with
    | classic => exact disp h rfl rfl
    | reduced => exact decode8Reduced_encodesBack h
  refine .ite (fun h => ?top10) fun _ => .ite (fun h => ?top11) fun _ => ?_
  case top10 =>
    cases core with
    | classic => exact disp h rfl rfl
    | reduced => exact decode10Reduced_encodesBack h
  case top11 =>
    exact .iteSome (fun h11 => .oneWord (one h (by decide)) (encIO_of_opcode (extract_join h h11)))
      fun h11 => .some (.oneWord (one h (by decide)) (encIO_of_opcode (extract_join h (bit_eq_one h11))))
  iterate 2 refine .iteSome (fun h => .oneWord (one h (by decide)) (encJ12_of_opcode h)) fun _ => ?_
  refine .iteSome (fun h => .oneWord (one h (by decide)) (encRI_of_opcode h) (fieldReg4_high w)) fun _ => ?_
  have htop : w.extractLsb' 12 4 = 0xF#4 := by simpa only [*, false_or] using nibble_cases (w.extractLsb' 12 4)
  exact decode15_encodesBack htop

end

/-- Settles O2: on every branch of the decoder the answer's format gives the word back. -/
theorem encodeOfDecode : Obligations.EncodeOfDecode := fun _ _ _ _ h => decode_encodesBack _ h

end Sys2Proof
end

section
/-! O1: decoding what was encoded. The opcode map (30_encoding.md R107) is said once for each format, as the list of its
opcodes; every instruction, aliases included (R114), is then a line of one of these lists. -/

namespace Sys2Proof

/-! The groups of the opcode map by the top four bits. -/

section
variable {core : CoreKind} {w w2 : Word}

theorem decode_eq_decode0 (h : w.extractLsb' 12 4 = 0x0#4) : decode core w w2 = decode0 w := by simp [decode, h]
theorem decode_eq_decode1 (h : w.extractLsb' 12 4 = 0x1#4) : decode core w w2 = decode1 w := by simp [decode, h]
theorem decode_eq_decode2 (h : w.extractLsb' 12 4 = 0x2#4) : decode core w w2 = decode2 w := by simp [decode, h]
theorem decode_eq_decode9 (h : w.extractLsb' 12 4 = 0x9#4) : decode core w w2 = decode9 w w2 := by simp [decode, h]
theorem decode_eq_decode15 (h : w.extractLsb' 12 4 = 0xF#4) : decode core w w2 = decode15 w := by simp [decode, h]
end

/-! The opcodes of each format. -/

section
variable (core : CoreKind) (w2 : Word)

theorem decode_encRR (d r : Reg) :
    decode core (encRR 0b000001#6 d r) w2 = some (.cpc d r) ∧ decode core (encRR 0b000010#6 d r) w2 = some (.sbc d r) ∧
    decode core (encRR 0b000011#6 d r) w2 = some (.add d r) ∧ decode core (encRR 0b000100#6 d r) w2 = some (.cpse d r) ∧
    decode core (encRR 0b000101#6 d r) w2 = some (.cp d r) ∧ decode core (encRR 0b000110#6 d r) w2 = some (.sub d r) ∧
    decode core (encRR 0b000111#6 d r) w2 = some (.adc d r) ∧ decode core (encRR 0b001000#6 d r) w2 = some (.and d r) ∧
    decode core (encRR 0b001001#6 d r) w2 = some (.eor d r) ∧ decode core (encRR 0b001010#6 d r) w2 = some (.or d r) ∧
    decode core (encRR 0b001011#6 d r) w2 = some (.mov d r) ∧
    decode core (encRR 0b100111#6 d r) w2 = some (.mul d r) := by
  simp [decode_eq_decode0, decode_eq_decode1, decode_eq_decode2, decode_eq_decode9, decode0, decode1, decode2, decode9]

theorem decode_encRI {d : Reg} (hd : d.high = true) (K : Byte) :
    decode core (encRI 0x3#4 d K) w2 = some (.cpi d K) ∧ decode core (encRI 0x4#4 d K) w2 = some (.sbci d K) ∧
    decode core (encRI 0x5#4 d K) w2 = some (.subi d K) ∧ decode core (encRI 0x6#4 d K) w2 = some (.ori d K) ∧
    decode core (encRI 0x7#4 d K) w2 = some (.andi d K) ∧ decode core (encRI 0xE#4 d K) w2 = some (.ldi d K) := by
  simp [decode, encRI_fields _ hd]

theorem decode_encIW {d : Reg} (hd : d.pairHigh = true) (K : BitVec 6) :
    decode core (encIW 0x96#8 d K) w2 = some (.adiw d K) ∧ decode core (encIW 0x97#8 d K) w2 = some (.sbiw d K) := by
  simp [decode_eq_decode9, decode9, encIW_fields _ hd]

theorem decode_encNN_movw {d r : Reg} (hd : d.even = true) (hr : r.even = true) :
    decode core (encNN 0x01#8 (d.extractLsb' 1 4) (r.extractLsb' 1 4)) w2 = some (.movw d r) := by
  simp [decode_eq_decode0, decode0, fieldEven_encNN _ hd, fieldSrcEven_encNN _ hr]

theorem decode_encNN_muls {d r : Reg} (hd : d.high = true) (hr : r.high = true) :
    decode core (encNN 0x02#8 (d.extractLsb' 0 4) (r.extractLsb' 0 4)) w2 = some (.muls d r) := by
  simp [decode_eq_decode0, decode0, fieldReg4_encNN _ hd, fieldSrc4_encNN _ hr]

theorem decode_encM3 {d r : Reg} (hd : d.mid = true) (hr : r.mid = true) :
    decode core (encM3 0b0#1 0b0#1 d r) w2 = some (.mulsu d r) ∧
    decode core (encM3 0b0#1 0b1#1 d r) w2 = some (.fmul d r) ∧
    decode core (encM3 0b1#1 0b0#1 d r) w2 = some (.fmuls d r) ∧
    decode core (encM3 0b1#1 0b1#1 d r) w2 = some (.fmulsu d r) := by
  simp [decode_eq_decode0, decode0, encM3_fields _ _ hd hr]

theorem decode_encR1_oneReg (d : Reg) :
    decode core (encR1 0b1001010#7 d 0x0#4) w2 = some (.com d) ∧
    decode core (encR1 0b1001010#7 d 0x1#4) w2 = some (.neg d) ∧
    decode core (encR1 0b1001010#7 d 0x2#4) w2 = some (.swap d) ∧
    decode core (encR1 0b1001010#7 d 0x3#4) w2 = some (.inc d) ∧
    decode core (encR1 0b1001010#7 d 0x5#4) w2 = some (.asr d) ∧
    decode core (encR1 0b1001010#7 d 0x6#4) w2 = some (.lsr d) ∧
    decode core (encR1 0b1001010#7 d 0x7#4) w2 = some (.ror d) ∧
    decode core (encR1 0b1001010#7 d 0xA#4) w2 = some (.dec d) := by
  simp [decode_eq_decode9, decode9, decodeOneReg]

theorem decode_encR1_load (d : Reg) :
    decode core (encR1 0b1001000#7 d 0x0#4) w2 = some (.lds d w2) ∧
    decode core (encR1 0b1001000#7 d 0x1#4) w2 = some (.ldZInc d) ∧
    decode core (encR1 0b1001000#7 d 0x2#4) w2 = some (.ldZDec d) ∧
    decode core (encR1 0b1001000#7 d 0x4#4) w2 = some (.lpmZ d) ∧
    decode core (encR1 0b1001000#7 d 0x5#4) w2 = some (.lpmZInc d) ∧
    decode core (encR1 0b1001000#7 d 0x6#4) w2 = some (.elpmZ d) ∧
    decode core (encR1 0b1001000#7 d 0x7#4) w2 = some (.elpmZInc d) ∧
    decode core (encR1 0b1001000#7 d 0x9#4) w2 = some (.ldYInc d) ∧
    decode core (encR1 0b1001000#7 d 0xA#4) w2 = some (.ldYDec d) ∧
    decode core (encR1 0b1001000#7 d 0xC#4) w2 = some (.ldX d) ∧
    decode core (encR1 0b1001000#7 d 0xD#4) w2 = some (.ldXInc d) ∧
    decode core (encR1 0b1001000#7 d 0xE#4) w2 = some (.ldXDec d) ∧
    decode core (encR1 0b1001000#7 d 0xF#4) w2 = some (.pop d) := by
  simp [decode_eq_decode9, decode9, decodeLoads]

theorem decode_encR1_store (r : Reg) :
    decode core (encR1 0b1001001#7 r 0x0#4) w2 = some (.sts w2 r) ∧
    decode core (encR1 0b1001001#7 r 0x1#4) w2 = some (.stZInc r) ∧
    decode core (encR1 0b1001001#7 r 0x2#4) w2 = some (.stZDec r) ∧
    decode core (encR1 0b1001001#7 r 0x4#4) w2 = some (.xch r) ∧
    decode core (encR1 0b1001001#7 r 0x9#4) w2 = some (.stYInc r) ∧
    decode core (encR1 0b1001001#7 r 0xA#4) w2 = some (.stYDec r) ∧
    decode core (encR1 0b1001001#7 r 0xC#4) w2 = some (.stX r) ∧
    decode core (encR1 0b1001001#7 r 0xD#4) w2 = some (.stXInc r) ∧
    decode core (encR1 0b1001001#7 r 0xE#4) w2 = some (.stXDec r) ∧
    decode core (encR1 0b1001001#7 r 0xF#4) w2 = some (.push r) := by
  simp [decode_eq_decode9, decode9, decodeStores]

theorem decode_encR1_reduced (r : Reg) :
    decode .reduced (encR1 0b1000000#7 r 0x8#4) w2 = some (.ldY r) ∧
    decode .reduced (encR1 0b1000000#7 r 0x0#4) w2 = some (.ldZ r) ∧
    decode .reduced (encR1 0b1000001#7 r 0x8#4) w2 = some (.stY r) ∧
    decode .reduced (encR1 0b1000001#7 r 0x0#4) w2 = some (.stZ r) := by
  simp [decode, decode8Reduced]

/-- Both top nibbles of format LQ lead a classic core to the same group. -/
theorem decode_encLQ_eq_decodeDisp (store y : BitVec 1) (q : BitVec 6) (r : Reg) :
    decode .classic (encLQ store y q r) w2 = decodeDisp (encLQ store y q r) := by
  rcases encLQ_top store y q r with h | h <;> simp [decode, h]

theorem decode_encLQ (q : BitVec 6) (r : Reg) :
    decode .classic (encLQ 0b0#1 0b1#1 q r) w2 = some (.lddY r q) ∧
    decode .classic (encLQ 0b0#1 0b0#1 q r) w2 = some (.lddZ r q) ∧
    decode .classic (encLQ 0b1#1 0b1#1 q r) w2 = some (.stdY q r) ∧
    decode .classic (encLQ 0b1#1 0b0#1 q r) w2 = some (.stdZ q r) := by
  simp [decode_encLQ_eq_decodeDisp, decodeDisp]

theorem decode_encLK7 (k : BitVec 7) {d : Reg} (hd : d.high = true) :
    decode .reduced (encLK7 0b10100#5 k d) w2 = some (.ldsShort d k) ∧
    decode .reduced (encLK7 0b10101#5 k d) w2 = some (.stsShort k d) := by
  simp [decode, decode10Reduced, encLK7_fields _ _ hd]

theorem decode_encIO (A : IoAddr) (r : Reg) :
    decode core (encIO 0b10110#5 A r) w2 = some (.inp r A) ∧
    decode core (encIO 0b10111#5 A r) w2 = some (.out A r) := by
  simp [decode]

theorem decode_encAB (A : BitVec 5) (b : BitVec 3) :
    decode core (encAB 0x98#8 A b) w2 = some (.cbi A b) ∧ decode core (encAB 0x99#8 A b) w2 = some (.sbic A b) ∧
    decode core (encAB 0x9A#8 A b) w2 = some (.sbi A b) ∧ decode core (encAB 0x9B#8 A b) w2 = some (.sbis A b) := by
  simp [decode_eq_decode9, decode9]

theorem decode_encRB (r : Reg) (b : BitVec 3) :
    decode core (encRB 0b1111100#7 r b) w2 = some (.bld r b) ∧
    decode core (encRB 0b1111101#7 r b) w2 = some (.bst r b) ∧
    decode core (encRB 0b1111110#7 r b) w2 = some (.sbrc r b) ∧
    decode core (encRB 0b1111111#7 r b) w2 = some (.sbrs r b) := by
  simp [decode_eq_decode15, decode15]

theorem decode_encBR (s : BitVec 3) (k : BitVec 7) :
    decode core (encBR 0b111100#6 s k) w2 = some (.brbs s k) ∧
    decode core (encBR 0b111101#6 s k) w2 = some (.brbc s k) := by
  simp [decode_eq_decode15, decode15]

theorem decode_encJ12 (k : BitVec 12) :
    decode core (encJ12 0xC#4 k) w2 = some (.rjmp k) ∧ decode core (encJ12 0xD#4 k) w2 = some (.rcall k) := by
  simp [decode]

theorem decode_encJ22 (k : PcAddr) :
    decode core (encJ22First 0b110#3 k) (k.extractLsb' 0 16) = some (.jmp k) ∧
    decode core (encJ22First 0b111#3 k) (k.extractLsb' 0 16) = some (.call k) := by
  simp [decode_eq_decode9, decode9, decodeOneReg]

theorem decode_encSB (s : BitVec 3) :
    decode core (encSB 0b0#1 s) w2 = some (.bset s) ∧ decode core (encSB 0b1#1 s) w2 = some (.bclr s) := by
  simp [decode_eq_decode9, decode9, decodeOneReg, decodeFixed8]

end

/-! Every instruction. -/

/-- The words of `i` decode on `core` to its base. -/
def DecodesToBase (core : CoreKind) (i : Instr) : Prop :=
  ∃ w rest, encode i = w :: rest ∧ decode core w (rest.headD 0) = some (i.base core)

theorem DecodesToBase.oneWord {core : CoreKind} {i : Instr} {w : Word} (henc : encode i = [w])
    (hdec : decode core w 0 = some (i.base core)) : DecodesToBase core i := ⟨w, [], henc, hdec⟩

theorem encode_base (core : CoreKind) (i : Instr) : encode (i.base core) = encode i := by
  cases i with
  | ldY d => exact (Laws.BaseWords.ldY d core).1
  | ldZ d => exact (Laws.BaseWords.ldZ d core).1
  | stY r => exact (Laws.BaseWords.stY r core).1
  | stZ r => exact (Laws.BaseWords.stZ r core).1
  | _ => rfl

theorem base_base (core : CoreKind) (i : Instr) : (i.base core).base core = i.base core := by
  cases i with
  | ldY | ldZ | stY | stZ => cases core <;> rfl
  | _ => rfl

theorem DecodesToBase.of_base {core : CoreKind} {i : Instr} (h : DecodesToBase core (i.base core)) :
    DecodesToBase core i := by
  unfold DecodesToBase at h
  rwa [encode_base, base_base] at h

/-- Every well-formed admitted instruction, by the format of its words. -/
theorem decodesToBase_of_admits {c : Device} {i : Instr} (hwf : i.wf = true) (hadm : c.admits i = true) :
    DecodesToBase c.core i := by
  cases i with
  -- two registers (RR, MW, M4, M3)
  | add | adc | sub | sbc | and | or | eor | cpse | cp | cpc | mov | mul | tst | clr | lsl | rol =>
    exact .oneWord rfl (by simp only [decode_encRR]; rfl)
  | movw =>
    obtain ⟨hd, hr⟩ := Bool.and_eq_true_iff.1 hwf
    exact .oneWord (encode_movw ..) (decode_encNN_movw _ _ hd hr)
  | muls =>
    obtain ⟨hd, hr⟩ := Bool.and_eq_true_iff.1 hwf
    exact .oneWord (encode_muls ..) (decode_encNN_muls _ _ hd hr)
  | mulsu | fmul | fmuls | fmulsu =>
    obtain ⟨hd, hr⟩ := Bool.and_eq_true_iff.1 hwf
    exact .oneWord rfl (by simp only [decode_encM3 _ _ hd hr]; rfl)
  -- a register and a constant (RI, IW)
  | subi | sbci | andi | ori | cpi | ldi | sbr | cbr | ser =>
    exact .oneWord rfl (by simp only [decode_encRI _ _ hwf]; rfl)
  | adiw | sbiw => exact .oneWord rfl (by simp only [decode_encIW _ _ hwf]; rfl)
  -- one register (R1, LS)
  | com | neg | swap | inc | asr | lsr | ror | dec =>
    exact .oneWord rfl (by simp only [decode_encR1_oneReg]; rfl)
  | ldZInc | ldZDec | lpmZ | lpmZInc | elpmZ | elpmZInc | ldYInc | ldYDec | ldX | ldXInc | ldXDec | pop =>
    exact .oneWord rfl (by simp only [decode_encR1_load]; rfl)
  | stZInc | stZDec | xch | stYInc | stYDec | stX | stXInc | stXDec | push =>
    exact .oneWord rfl (by simp only [decode_encR1_store]; rfl)
  | lds => exact ⟨_, _, rfl, (decode_encR1_load ..).1⟩
  | sts => exact ⟨_, _, rfl, (decode_encR1_store ..).1⟩
  -- with a displacement or a short address, by the core (LQ, LK7)
  | lddY | lddZ | stdY | stdZ =>
    have hcore : c.core = .classic := of_decide_eq_true hadm
    rw [hcore]
    exact .oneWord rfl (by simp only [decode_encLQ]; rfl)
  | ldY | ldZ | stY | stZ =>
    refine .of_base ?_
    cases c.core with
    | classic => exact .oneWord rfl (by simp only [decode_encLQ]; rfl)
    | reduced => exact .oneWord rfl (by simp only [decode_encR1_reduced]; rfl)
  | ldsShort | stsShort =>
    have hcore : c.core = .reduced := of_decide_eq_true hadm
    rw [hcore]
    exact .oneWord rfl (by simp only [decode_encLK7 _ _ hwf]; rfl)
  -- the I/O space, bits and branches (IO, AB, RB, BR)
  | inp | out => exact .oneWord rfl (by simp only [decode_encIO]; rfl)
  | sbi | cbi | sbic | sbis => exact .oneWord rfl (by simp only [decode_encAB]; rfl)
  | sbrc | sbrs | bst | bld => exact .oneWord rfl (by simp only [decode_encRB]; rfl)
  | brbs | breq | brcs | brlo | brmi | brlt | brhs | brts | brvs | brie => exact .oneWord rfl (decode_encBR ..).1
  | brbc | brne | brcc | brsh | brpl | brge | brhc | brtc | brvc | brid => exact .oneWord rfl (decode_encBR ..).2
  -- jumps and calls (J12, J22)
  | rjmp => exact .oneWord (encode_rjmp _) (decode_encJ12 ..).1
  | rcall => exact .oneWord (encode_rcall _) (decode_encJ12 ..).2
  | jmp => exact ⟨_, _, encode_jmp _, (decode_encJ22 ..).1⟩
  | call => exact ⟨_, _, encode_call _, (decode_encJ22 ..).2⟩
  -- flags (SB) and the words without operands
  | bset | sec | sen | sez | sei | ses | sev | setT | seh => exact .oneWord rfl (decode_encSB ..).1
  | bclr | clc | cln | clz | cli | cls | clv | clt | clh => exact .oneWord rfl (decode_encSB ..).2
  | ijmp | eijmp | icall | eicall | ret | reti | lpm | elpm | spm | spmZInc | brk | nop | sleep | wdr =>
    exact .oneWord rfl rfl

/-- `skiplen` counts the words that O2 gives back. -/
theorem skipLen_eq_length {w v : Word} {l : List Word} (h : l = if isTwoWord w then [w, v] else [w]) :
    skipLen w = l.length := by
  subst h
  unfold skipLen
  split <;> rfl

/-- Settles O1: the words decode to the base, by format; the base has the same words, whose number O2 gives from the
first alone. -/
theorem decodeOfEncode : Obligations.DecodeOfEncode := by
  intro c i hwf hadm
  obtain ⟨w, rest, henc, hdec⟩ := decodesToBase_of_admits hwf hadm
  obtain ⟨-, -, hback⟩ := decode_encodesBack _ hdec
  rw [encode_base, henc] at hback
  exact ⟨w, rest, henc, hdec, skipLen_eq_length hback⟩

end Sys2Proof
end

section
/-! O3, O6: words that are no instruction. The word after the first decides only the operand of a two-word instruction,
never whether the first is decodable nor whether the device admits it. -/

namespace Sys2Proof

section
variable (c : Device) (core : CoreKind) (w w2 w2' : Word)

theorem decodeLoads_map_admits : (decodeLoads w w2).map c.admits = (decodeLoads w w2').map c.admits := by
  simp only [decodeLoads, apply_ite (Option.map c.admits)]
  rfl

theorem decodeStores_map_admits : (decodeStores w w2).map c.admits = (decodeStores w w2').map c.admits := by
  simp only [decodeStores, apply_ite (Option.map c.admits)]
  rfl

theorem decodeOneReg_map_admits : (decodeOneReg w w2).map c.admits = (decodeOneReg w w2').map c.admits := by
  simp only [decodeOneReg, apply_ite (Option.map c.admits)]
  rfl

theorem decode9_map_admits : (decode9 w w2).map c.admits = (decode9 w w2').map c.admits := by
  simp only [decode9, apply_ite (Option.map c.admits), decodeLoads_map_admits c w w2 w2',
    decodeStores_map_admits c w w2 w2', decodeOneReg_map_admits c w w2 w2']

/-- Whether a word is decodable and its instruction admitted does not depend on the word after it. -/
theorem decode_map_admits : (decode core w w2).map c.admits = (decode core w w2').map c.admits := by
  by_cases htop : w.extractLsb' 12 4 = 0x9#4
  · rw [decode_eq_decode9 htop, decode_eq_decode9 htop, decode9_map_admits c w w2 w2']
  · simp only [decode, htop, if_false]
end

/-- Of the words `0000 0000 …` only NOP is an instruction (R107). -/
theorem decode_eq_none_of_small {core : CoreKind} {w : Word} (w2 : Word) (hpos : 1 ≤ w.toNat)
    (hsmall : w.toNat ≤ 0xFF) : decode core w w2 = none := by
  have hhigh : w.extractLsb' 8 8 = 0#8 := by
    apply BitVec.eq_of_toNat_eq
    rw [BitVec.extractLsb'_toNat, Nat.shiftRight_eq_div_pow]
    exact Nat.mod_eq_of_lt (by omega) |>.trans (Nat.div_eq_of_lt (by omega))
  have htop : w.extractLsb' 12 4 = 0#4 := extract_part (t := 4) hhigh (by decide)
  have h10 : w.extractLsb' 10 2 = 0#2 := extract_part (t := 2) hhigh (by decide)
  have h8 : w.extractLsb' 8 2 = 0#2 := extract_part (t := 0) hhigh (by decide)
  have hw : w ≠ 0#16 := by rintro rfl; simp at hpos
  simp [decode_eq_decode0 htop, decode0, h10, h8, hw]

/-- Settles O3: an admitted instruction's first word decodes with its own second word (O1), hence with any. -/
theorem undecodableWordsEncodeNothing : Obligations.UndecodableWordsEncodeNothing := by
  refine ⟨fun c w w2 hnone i hwf hadm rest henc => ?_, fun core w w2 => decode_eq_none_of_small w2⟩
  obtain ⟨v, rest', henc', hdec⟩ := decodesToBase_of_admits hwf hadm
  obtain ⟨rfl, rfl⟩ := List.cons.inj (henc.symm.trans henc')
  have h := decode_map_admits c c.core w w2 (rest.headD 0)
  rw [hnone, hdec] at h
  cases h

end Sys2Proof

namespace Sys2Proof.Machine

theorem State.progWord?_eq_none {s : State} {a : Nat} (h : s.dev.flashWords ≤ a) : s.progWord? a = none :=
  if_neg (by omega)

theorem State.fetch_undecodable {s : State} {w : Word} (hw : s.progWord? s.pc.toNat = some w)
    (hbad : ∀ w2 i, decode s.dev.core w w2 = some i → s.dev.admits i = false) : s.fetch = fault (.undecodable w) := by
  unfold State.fetch
  rw [hw]
  dsimp only
  split
  · rfl
  · rename_i i hi
    rw [if_neg (by rw [hbad _ i hi]; decide)]

theorem State.fetch_beyondFlash {s : State} (h : s.dev.flashWords ≤ s.pc.toNat) :
    s.fetch = refuse (.fetchBeyondFlash s.pc.toNat) := by
  unfold State.fetch
  rw [State.progWord?_eq_none h]

theorem State.fetch_secondBeyondFlash {s : State} {w w2 : Word} {i : Instr} (hw : s.progWord? s.pc.toNat = some w)
    (htwo : isTwoWord w = true) (hi : decode s.dev.core w w2 = some i) (hadm : s.dev.admits i = true)
    (h : s.dev.flashWords ≤ s.nextWordAddr) : s.fetch = refuse (.fetchBeyondFlash s.nextWordAddr) := by
  have hmap := decode_map_admits s.dev s.dev.core w w2 0
  rw [hi, Option.map_some, hadm] at hmap
  obtain ⟨j, hj, hjadm⟩ := Option.map_eq_some_iff.1 hmap.symm
  unfold State.fetch
  rw [hw, State.progWord?_eq_none h]
  dsimp only [Option.getD_none]
  rw [hj]
  simp [hjadm, htwo]

/-! With no interrupt to take, awake and not halted, a step stops as its fetch does. -/

section
variable {s : State} (hsampled : s.agents.sampled = none) (hsleep : s.agents.sleeping = false)
  (hhalt : s.halted = false)
include hsampled hsleep hhalt

theorem step_of_fetch_fault {f : Fault} (h : s.agents.fetch = fault f) : step s = .fault f := by
  simp [step, processorStep, hsampled, hsleep, hhalt, h, fault]

theorem step_of_fetch_refused {r : Refusal} (h : s.agents.fetch = refuse r) : step s = .refused r := by
  simp [step, processorStep, hsampled, hsleep, hhalt, h, refuse]

end

theorem isTwoWord_of_skipLen {w : Word} (h : skipLen w = 2) : isTwoWord w = true := by
  unfold skipLen at h
  split at h
  · assumption
  · contradiction

/-- Settles O6: each clause is one stop of the fetch. -/
theorem fetchStops : Obligations.FetchStops := by
  refine ⟨fun s w hsampled hsleep hhalt hw hbad => ?undecodable, fun s hsampled hsleep hhalt h => ?first,
    fun s w w2 i hsampled hsleep hhalt hw htwo hi hadm h => ?second⟩
  case undecodable => exact step_of_fetch_fault hsampled hsleep hhalt (State.fetch_undecodable hw hbad)
  case first => exact step_of_fetch_refused hsampled hsleep hhalt (State.fetch_beyondFlash h)
  case second =>
    exact step_of_fetch_refused hsampled hsleep hhalt
      (State.fetch_secondBeyondFlash hw (isTwoWord_of_skipLen htwo) hi hadm h)

end Sys2Proof.Machine
end

section
/-! O32: the aliases do what their base instructions do (30_encoding.md R109, R110, R114). Most pairs have one meaning
written twice; the others differ in how the result is computed, in how SREG is written, or in the displacement 0. -/

namespace Sys2Proof.Machine

/-! The same result by another operation. -/

theorem add_self_eq_shiftLeft : ∀ v : Byte, v + v = v <<< 1 := by decide

theorem add_self_add_carry : ∀ (v : Byte) (c : Bool),
    v + v + (BitVec.ofBool c).setWidth 8 = (v <<< 1) ||| (BitVec.ofBool c).setWidth 8 := by decide +kernel

theorem exec_tst (d : Reg) (s : State) : exec (.tst d) s = exec (.and d d) s := by
  change execTst d s = execAnd d d s
  rw [execTst, execAnd, BitVec.and_self]

theorem exec_clr (d : Reg) (s : State) : exec (.clr d) s = exec (.eor d d) s := by
  change execClr d s = execEor d d s
  rw [execClr, execEor, BitVec.xor_self]
  rfl

theorem exec_lsl (d : Reg) (s : State) : exec (.lsl d) s = exec (.add d d) s := by
  change execLsl d s = execAdd d d s
  rw [execLsl, execAdd, add_self_eq_shiftLeft]

theorem exec_rol (d : Reg) (s : State) : exec (.rol d) s = exec (.adc d d) s := by
  change execRol d s = execAdc d d s
  rw [execRol, execAdc, State.carry, add_self_add_carry]

/-! The displacement 0. -/

theorem State.displaced_zero (s : State) (p : Ptr) : s.displaced p 0 = s.ptr p := BitVec.add_zero _

/-- LD and ST with Y or Z on a classic core (42_data_transfer.md R269, R273, R282, R286). -/
theorem exec_noDisplacement (r : Reg) (s : State) :
    exec (.ldY r) s = exec (.lddY r 0) s ∧ exec (.ldZ r) s = exec (.lddZ r 0) s ∧
    exec (.stY r) s = exec (.stdY 0 r) s ∧ exec (.stZ r) s = exec (.stdZ 0 r) s := by
  have load (p : Ptr) : finish (s.load r (s.ptr p) 1) = finish (s.load r (s.displaced p 0) 1) := by
    rw [State.displaced_zero]
  have store (p : Ptr) : finish (s.store r (s.ptr p) 1) = finish (s.store r (s.displaced p 0) 1) := by
    rw [State.displaced_zero]
  exact ⟨load .y, load .z, store .y, store .z⟩

/-! One flag written among all eight, and the same bit of SREG written alone. -/

theorem sregOf_withFlag : ∀ (v : Byte) (x : Bool),
    sregOf { flagsOf v with c := x } = withBit v 0 x ∧ sregOf { flagsOf v with z := x } = withBit v 1 x ∧
    sregOf { flagsOf v with n := x } = withBit v 2 x ∧ sregOf { flagsOf v with v := x } = withBit v 3 x ∧
    sregOf { flagsOf v with s := x } = withBit v 4 x ∧ sregOf { flagsOf v with h := x } = withBit v 5 x ∧
    sregOf { flagsOf v with t := x } = withBit v 6 x ∧ sregOf { flagsOf v with i := x } = withBit v 7 x := by
  decide +kernel

theorem State.setFlags_oneFlag (s : State) (x : Bool) :
    s.setFlags { s.flags with c := x } = s.setSregBit 0 x ∧ s.setFlags { s.flags with z := x } = s.setSregBit 1 x ∧
    s.setFlags { s.flags with n := x } = s.setSregBit 2 x ∧ s.setFlags { s.flags with v := x } = s.setSregBit 3 x ∧
    s.setFlags { s.flags with s := x } = s.setSregBit 4 x ∧ s.setFlags { s.flags with h := x } = s.setSregBit 5 x ∧
    s.setFlags { s.flags with t := x } = s.setSregBit 6 x ∧ s.setFlags { s.flags with i := x } = s.setSregBit 7 x := by
  simp only [State.setFlags, State.setSregBit, State.flags, sregOf_withFlag, and_self]

/-- BSET of another flag than I changes no interrupt delay. -/
theorem exec_bset_of_ne {b : BitVec 3} (hb : b ≠ bitI) (s : State) :
    exec (.bset b) s = .next ((s.setSregBit b true).advance 1) := by
  change execBset b s = _
  rw [execBset, decide_eq_false hb, Bool.or_false]
  rfl

theorem exec_bset_i (s : State) :
    exec (.bset 7) s = .next (State.advance { s.setSregBit 7 true with inhibit := true } 1) := by
  change execBset 7 s = _
  rw [execBset, decide_eq_true (show (7 : BitVec 3) = bitI from rfl), Bool.or_true]

/-- The eight flag aliases of BCLR. -/
theorem exec_clearFlag (s : State) :
    exec .clc s = exec (.bclr 0) s ∧ exec .clz s = exec (.bclr 1) s ∧ exec .cln s = exec (.bclr 2) s ∧
    exec .clv s = exec (.bclr 3) s ∧ exec .cls s = exec (.bclr 4) s ∧ exec .clh s = exec (.bclr 5) s ∧
    exec .clt s = exec (.bclr 6) s ∧ exec .cli s = exec (.bclr 7) s := by
  obtain ⟨hc, hz, hn, hv, hs, hh, ht, hi⟩ := s.setFlags_oneFlag false
  have next {t u : State} (h : t = u) : (.next (t.advance 1) : StepOutcome State) = .next (u.advance 1) := by rw [h]
  exact ⟨next hc, next hz, next hn, next hv, next hs, next hh, next ht, next hi⟩

/-- The eight flag aliases of BSET; SEI delays interrupts as BSET 7 does. -/
theorem exec_setFlag (s : State) :
    exec .sec s = exec (.bset 0) s ∧ exec .sez s = exec (.bset 1) s ∧ exec .sen s = exec (.bset 2) s ∧
    exec .sev s = exec (.bset 3) s ∧ exec .ses s = exec (.bset 4) s ∧ exec .seh s = exec (.bset 5) s ∧
    exec .setT s = exec (.bset 6) s ∧ exec .sei s = exec (.bset 7) s := by
  obtain ⟨hc, hz, hn, hv, hs, hh, ht, hi⟩ := s.setFlags_oneFlag true
  have next {b : BitVec 3} (hb : b ≠ bitI) {t : State} (h : t = s.setSregBit b true) :
      .next (t.advance 1) = exec (.bset b) s := by rw [exec_bset_of_ne hb, h]
  refine ⟨next (by decide) hc, next (by decide) hz, next (by decide) hn, next (by decide) hv, next (by decide) hs,
    next (by decide) hh, next (by decide) ht, ?_⟩
  rw [exec_bset_i, ← hi]
  rfl

/-- Settles O32: the instructions left to `rfl` are their own base, or aliases whose meaning is the base's word for
word. -/
theorem aliasesMeanTheirBase : Obligations.AliasesMeanTheirBase := by
  intro core i s
  cases i with
  | tst d => exact exec_tst d s
  | clr d => exact exec_clr d s
  | lsl d => exact exec_lsl d s
  | rol d => exact exec_rol d s
  | ldY | ldZ | stY | stZ =>
    cases core with
    | classic => simp only [exec_noDisplacement]; rfl
    | reduced => rfl
  | sec | sez | sen | sev | ses | seh | setT | sei => simp only [exec_setFlag]; rfl
  | clc | clz | cln | clv | cls | clh | clt | cli => simp only [exec_clearFlag]; rfl
  | _ => rfl

end Sys2Proof.Machine
end

section
/-! O4, O19 … O24: the byte arithmetic and logic of 40_arithmetic_logic.md and the compares of 41_branch.md. Each flag
formula of the spec is a formula over single bits; here the bits become comparisons of numbers, the formulas become
statements about the exact result, and each instruction is one use of the statement about its form. -/

namespace Sys2Proof.Machine

/-! Bits as comparisons. -/

theorem byte_bit7 (v : Byte) : v.getLsbD 7 = decide (128 ≤ v.toNat) := BitVec.msb_eq_decide v

theorem byte_bit3 (v : Byte) : v.getLsbD 3 = decide (8 ≤ v.toNat % 16) := by
  rw [← BitVec.testBit_toNat, Nat.testBit_eq_decide_div_mod_eq, decide_eq_decide]; omega

theorem byte_toInt (v : Byte) : v.toInt = if 128 ≤ v.toNat then (v.toNat : Int) - 256 else v.toNat := by
  rw [BitVec.toInt_eq_toNat_cond]; split <;> split <;> omega

theorem beq_eq_decide_toNat {w : Nat} (u v : BitVec w) : (u == v) = decide (u.toNat = v.toNat) := by
  rw [beq_eq_decide, decide_eq_decide, BitVec.toNat_inj]

theorem State.carry_toNat (s : State) : s.carry.toNat = s.flags.c.toNat := by
  unfold State.carry; cases s.flags.c <;> rfl

/-! The outcome of an instruction that writes a byte and the flags. -/

/-- The flag function is given what Rd holds afterwards. -/
theorem State.alu_flagsBy (s : State) (d : Reg) {res : Byte} {fn : FlagFn} {a b : Word} {f : Flags} {P : Flags → Prop}
    (hP : P f) :
    let t := s.alu d res (replaceFlags s.dev.flags fn ⟨a, b, res.setWidth 16⟩ s.flags f)
    FlagsBy s t fn ⟨a, b, (t.reg d).setWidth 16⟩ P :=
  FlagsBy.of_replace (by rw [State.alu_flags, State.alu_reg]) hP

theorem State.compare_flagsBy (s : State) {fn : FlagFn} {x : FlagArgs} {f : Flags} {P : Flags → Prop} (hP : P f) :
    FlagsBy s (s.compare (replaceFlags s.dev.flags fn x s.flags f)) fn x P :=
  FlagsBy.of_replace (s.compare_flags _) hP

/-! Sums (R141, R151, R152). -/

/-- The carry out of the bit of weight `m`, from that bit of the operands and of the sum `r` modulo `2 * m`. -/
theorem carryOut_eq {m a b cin r : Nat} (ha : a < 2 * m) (hb : b < 2 * m) (hc : cin ≤ 1)
    (hr : r < 2 * m ∧ (r = a + b + cin ∨ r + 2 * m = a + b + cin)) :
    ((decide (m ≤ a) && decide (m ≤ b)) || (decide (m ≤ b) && !decide (m ≤ r)) || (!decide (m ≤ r) && decide (m ≤ a))) =
      decide (2 * m ≤ a + b + cin) := by
  grind

/-- C and H are the carries out of bits 7 and 3; for V and S, the signed value is the unsigned one less 256 times bit 7. -/
theorem sumFlags_flagsAdd {a b res : Byte} {cin : Nat} (hc : cin ≤ 1)
    (hres : res.toNat = (a.toNat + b.toNat + cin) % 256) (f : Flags) : SumFlags f a b cin (flagsAdd a b res f) := by
  have ha := a.isLt
  have hb := b.isLt
  simp only [SumFlags, flagsAdd, byte_bit7, byte_bit3, byte_toInt, beq_eq_decide_toNat, and_true]
  refine ⟨?c, ?h, ?v, ?s, ?z, ?n⟩
  case c => exact carryOut_eq (m := 128) ha hb hc (by omega)
  case h => exact carryOut_eq (m := 8) (by omega) (by omega) hc (by omega)
  case v | s => grind
  case z => rw [hres]; rfl
  case n => rw [hres]

/-- An instruction that writes `a + b + cin` and the flags of the sum. -/
theorem State.sum_effect {s : State} {d : Reg} {a b res : Byte} {o : StepOutcome State}
    (ho : o = .next (s.alu d res (s.flagsAdd a b res))) {cin : Nat} (hc : cin ≤ 1)
    (hres : res.toNat = (a.toNat + b.toNat + cin) % 256) {n : Int} (hn : n = a.toNat + b.toNat + cin) :
    ∃ t, o = .next t ∧ WroteByte s t d n ∧
      FlagsBy s t .add ⟨a.setWidth 16, b.setWidth 16, (t.reg d).setWidth 16⟩ (SumFlags s.flags a b cin) :=
  ⟨_, ho, s.alu_wroteByte d _ _ (by omega), s.alu_flagsBy d (sumFlags_flagsAdd hc hres s.flags)⟩

theorem add_toNat_noCarry (a b : Byte) : (a + b).toNat = (a.toNat + b.toNat + 0) % 256 := BitVec.toNat_add a b

theorem add_carry_toNat (s : State) (a b : Byte) :
    (a + b + s.carry).toNat = (a.toNat + b.toNat + s.flags.c.toNat) % 256 := by
  rw [BitVec.toNat_add, BitVec.toNat_add, State.carry_toNat, Nat.mod_add_mod]

/-- Settles O19: LSL and ROL are ADD and ADC of a register with itself. -/
theorem addEffect : Obligations.AddEffect := by
  intro s d r
  have hc := s.flags.c.toNat_le
  exact ⟨s.sum_effect rfl zero_le_one (add_toNat_noCarry _ _) (by simp),
    s.sum_effect rfl hc (add_carry_toNat s _ _) rfl,
    s.sum_effect (exec_lsl d s) zero_le_one (add_toNat_noCarry _ _) (by omega),
    s.sum_effect (exec_rol d s) hc (add_carry_toNat s _ _) (by omega)⟩

/-! Differences (R142, R143, R154 … R157, R212 … R214). -/

/-- The borrow out of the bit of weight `m`, from that bit of the operands and of the difference `r` modulo `2 * m`. -/
theorem borrowOut_eq {m a b bin r : Nat} (ha : a < 2 * m) (hb : b < 2 * m) (hc : bin ≤ 1)
    (hr : r < 2 * m ∧ (r + b + bin = a ∨ r + b + bin = a + 2 * m)) :
    ((!decide (m ≤ a) && decide (m ≤ b)) || (decide (m ≤ b) && decide (m ≤ r)) || (decide (m ≤ r) && !decide (m ≤ a))) =
      decide (a < b + bin) := by
  grind

/-- C and H are the borrows out of bits 7 and 3, V and S as for the sum. -/
theorem differenceFlags_flagsSub {a b res : Byte} {bin : Nat} (hb : bin ≤ 1)
    (hres : (res.toNat : Int) = (a.toNat - b.toNat - bin) % 256) (f : Flags) :
    DifferenceFlags f a b bin false (flagsSub a b res f) := by
  have ha := a.isLt
  have hb' := b.isLt
  simp only [DifferenceFlags, flagsSub, byte_bit7, byte_bit3, byte_toInt, beq_eq_decide_toNat, and_true]
  refine ⟨?c, ?h, ?v, ?s, ?z, ?n⟩
  case c => exact borrowOut_eq (m := 128) ha hb' hb (by omega)
  case h => exact borrowOut_eq (m := 8) (by omega) (by omega) hb (by omega)
  case v | s => grind
  case z | n => grind

/-- SBC's Z is SUB's, kept clear where it was clear. -/
theorem differenceFlags_flagsSbc {a b res : Byte} {bin : Nat} (hb : bin ≤ 1)
    (hres : (res.toNat : Int) = (a.toNat - b.toNat - bin) % 256) (f : Flags) :
    DifferenceFlags f a b bin true (flagsSbc a b res f) := by
  obtain ⟨hc, hh, hv, hs, hz, hn, hi, ht⟩ := differenceFlags_flagsSub hb hres f
  refine ⟨hc, hh, hv, hs, ?_, hn, hi, ht⟩
  rw [Bool.not_false, Bool.true_or, Bool.and_true] at hz
  exact congrArg (· && f.z) hz

theorem sub_toNat (a b : Byte) : ((a - b).toNat : Int) = (a.toNat - b.toNat - (0 : Nat)) % 256 := by
  rw [BitVec.toNat_sub]; omega

theorem sub_carry_toNat (s : State) (a b : Byte) :
    ((a - b - s.carry).toNat : Int) = (a.toNat - b.toNat - s.flags.c.toNat) % 256 := by
  rw [BitVec.toNat_sub, BitVec.toNat_sub, State.carry_toNat]
  have := s.flags.c.toNat_le
  omega

/-- An instruction that writes `a - b` and the flags of the difference. -/
theorem State.sub_effect {s : State} {d : Reg} {a b : Byte} {o : StepOutcome State}
    (ho : o = .next (s.alu d (a - b) (s.flagsSub a b (a - b)))) :
    ∃ t, o = .next t ∧ WroteByte s t d (a.toNat - b.toNat) ∧
      FlagsBy s t .sub ⟨a.setWidth 16, b.setWidth 16, (t.reg d).setWidth 16⟩ (DifferenceFlags s.flags a b 0 false) :=
  ⟨_, ho, s.alu_wroteByte d _ _ ((sub_toNat a b).trans (by simp)),
    s.alu_flagsBy d (differenceFlags_flagsSub zero_le_one (sub_toNat a b) s.flags)⟩

/-- An instruction that writes `a - b - C` and the flags of the difference. -/
theorem State.sbc_effect {s : State} {d : Reg} {a b : Byte} {o : StepOutcome State}
    (ho : o = .next (s.alu d (a - b - s.carry) (s.flagsSbc a b (a - b - s.carry)))) :
    ∃ t, o = .next t ∧ WroteByte s t d (a.toNat - b.toNat - s.flags.c.toNat) ∧
      FlagsBy s t .sbc ⟨a.setWidth 16, b.setWidth 16, (t.reg d).setWidth 16⟩
        (DifferenceFlags s.flags a b s.flags.c.toNat true) :=
  ⟨_, ho, s.alu_wroteByte d _ _ (sub_carry_toNat s a b),
    s.alu_flagsBy d (differenceFlags_flagsSbc s.flags.c.toNat_le (sub_carry_toNat s a b) s.flags)⟩

/-- Settles O20. -/
theorem subtractEffect : Obligations.SubtractEffect := fun _ _ _ _ =>
  ⟨State.sub_effect rfl, State.sub_effect rfl, State.sbc_effect rfl, State.sbc_effect rfl⟩

/-- An instruction that writes the flags of `a - b` and nothing else. -/
theorem State.cp_effect {s : State} {a b : Byte} {o : StepOutcome State}
    (ho : o = .next (s.compare (s.flagsSub a b (a - b)))) :
    ∃ t, o = .next t ∧ OnlySreg s t ∧ MovedBy s t 1 ∧
      FlagsBy s t .sub ⟨a.setWidth 16, b.setWidth 16, (a - b).setWidth 16⟩ (DifferenceFlags s.flags a b 0 false) := by
  obtain ⟨honly, hmoved⟩ := s.compare_onlySreg (s.flagsSub a b (a - b))
  exact ⟨_, ho, honly, hmoved, s.compare_flagsBy (differenceFlags_flagsSub zero_le_one (sub_toNat a b) s.flags)⟩

/-- Settles O21. -/
theorem compareEffect : Obligations.CompareEffect := by
  intro s d r K
  refine ⟨State.cp_effect rfl, ?cpc, State.cp_effect rfl⟩
  case cpc =>
    have hres := sub_carry_toNat s (s.reg d) (s.reg r)
    obtain ⟨honly, hmoved⟩ := s.compare_onlySreg (s.flagsSbc (s.reg d) (s.reg r) (s.reg d - s.reg r - s.carry))
    exact ⟨_, rfl, honly, hmoved, s.compare_flagsBy (differenceFlags_flagsSbc s.flags.c.toNat_le hres s.flags)⟩

/-! Logic (R144, R159 … R171). -/

/-- An instruction that writes a byte by its bits and the flags of a logic result. -/
theorem State.logic_effect {s : State} {d : Reg} {res : Byte} {o : StepOutcome State}
    (ho : o = .next (s.alu d res (s.flagsLogic res))) {bits : Nat → Bool} (hbits : ∀ k, k < 8 → res.getLsbD k = bits k) :
    ∃ t, o = .next t ∧ (∀ k, k < 8 → (t.reg d).getLsbD k = bits k) ∧ OtherRegs s t [d] ∧
      OnlyRegsSreg s t ∧ MovedBy s t 1 ∧
      FlagsBy s t .logic ⟨0, 0, (t.reg d).setWidth 16⟩
        (· = { s.flags with v := false, n := bits 7, s := bits 7, z := decide (t.reg d = 0) }) := by
  refine ⟨_, ho, by rwa [State.alu_reg], OtherRegs.setReg s d res, rfl, MovedBy.advance_one rfl rfl,
    s.alu_flagsBy d ?_⟩
  simp only [State.alu_reg, Machine.flagsLogic, hbits 7 (by decide), Bool.xor_false, beq_eq_decide]

/-- Settles O22. -/
theorem logicEffect : Obligations.LogicEffect := by
  intro s d r K
  simp only [List.forall_mem_cons, List.not_mem_nil, false_imp_iff, implies_true, and_true]
  refine ⟨?and, ?andi, ?or, ?ori, ?eor, ?sbr, ?cbr, ?tst, ?clr⟩
  case and | andi => exact State.logic_effect rfl fun k _ => BitVec.getLsbD_and
  case or | ori | sbr => exact State.logic_effect rfl fun k _ => BitVec.getLsbD_or
  case eor => exact State.logic_effect rfl fun k _ => BitVec.getLsbD_xor
  case cbr =>
    refine State.logic_effect rfl fun k hk => ?_
    rw [BitVec.getLsbD_and, show (0xFF : Byte) - K = ~~~K from BitVec.allOnes_sub_eq_not K, BitVec.getLsbD_not,
      decide_eq_true hk, Bool.true_and]
  case tst => exact State.logic_effect rfl fun _ _ => rfl
  case clr => exact State.logic_effect rfl fun k _ => BitVec.getLsbD_zero

/-! One operand (R145 … R148, R164, R165, R168, R169). -/

/-- N is bit 7 of the result and S is N xor V: what the four flag functions of one operand have in common. -/
theorem ResultFlags.of_eq {o f : Flags} {res : Byte} (hn : f.n = res.getLsbD 7) (hs : f.s = (res.getLsbD 7 ^^ f.v))
    (hi : f.i = o.i) (ht : f.t = o.t) : ResultFlags o f res :=
  ⟨hn.trans (byte_bit7 res), hs.trans (by rw [hn]), hi, ht⟩

theorem complement_toNat (a : Byte) : (0xFF - a).toNat = 255 - a.toNat := by
  rw [BitVec.toNat_sub_of_le (BitVec.le_def.mpr (Nat.le_of_lt_succ a.isLt))]; rfl

theorem negate_toNat (a : Byte) : (0x00 - a).toNat = (256 - a.toNat) % 256 := by
  rw [BitVec.toNat_sub]; rfl

theorem increment_toNat (a : Byte) : (a + 1).toNat = (a.toNat + 1) % 256 := BitVec.toNat_add a 1

theorem decrement_toNat (a : Byte) : (a - 1).toNat = (a.toNat + 255) % 256 := by
  rw [BitVec.toNat_sub, Nat.add_comm]; rfl

/-- Settles O23. -/
theorem complementNegateEffect : Obligations.ComplementNegateEffect := by
  intro s d
  have ha := (s.reg d).isLt
  refine ⟨⟨_, rfl, s.alu_wroteByte d _ _ ?comValue, s.alu_flagsBy d ⟨?comResult, ?comZ, rfl, rfl, rfl⟩⟩,
    ⟨_, rfl, s.alu_wroteByte d _ _ ?negValue, s.alu_flagsBy d ⟨?negResult, ?negZ, ?negV, ?negC, ?negH⟩⟩⟩
  case comValue => rw [complement_toNat]; omega
  case negValue => rw [negate_toNat]; omega
  case comResult | negResult => rw [State.alu_reg]; exact ResultFlags.of_eq rfl rfl rfl rfl
  all_goals simp only [flagsCom, flagsLogic, flagsNeg, beq_eq_decide_toNat, bne, byte_bit3, complement_toNat, negate_toNat]
  case comZ => grind
  case negZ | negV | negC | negH => grind

/-- Settles O24. -/
theorem incrementDecrementEffect : Obligations.IncrementDecrementEffect := by
  intro s d
  have ha := (s.reg d).isLt
  refine ⟨⟨_, rfl, s.alu_wroteByte d _ _ ?incValue, s.alu_flagsBy d ⟨?incResult, ?incZ, ?incV, rfl, rfl⟩⟩,
    ⟨_, rfl, s.alu_wroteByte d _ _ ?decValue, s.alu_flagsBy d ⟨?decResult, ?decZ, ?decV, rfl, rfl⟩⟩⟩
  case incValue => rw [increment_toNat]; omega
  case decValue => rw [decrement_toNat]; omega
  case incResult | decResult => rw [State.alu_reg]; exact ResultFlags.of_eq rfl rfl rfl rfl
  all_goals
    simp only [flagsInc, flagsDec, beq_eq_decide_toNat, increment_toNat, decrement_toNat, byte_toInt, decide_eq_decide]
  case incZ | incV | decZ | decV => grind

/-! Worked examples (95_test_vectors.md). -/

/-- Settles O4. -/
theorem sampleWordsDecode : Obligations.SampleWordsDecode := by
  unfold Obligations.SampleWordsDecode
  decide

end Sys2Proof.Machine
end

section
/-! O25 … O27: the instructions on register pairs, ADIW, SBIW and the products (40_arithmetic_logic.md R149, R150, R153,
R158, R173 … R178). A product of two extended bytes fits in 16 bits, so the pair holds it exactly. -/

namespace Sys2Proof.Machine

theorem word_bit15 (v : Word) : v.getLsbD 15 = decide (32768 ≤ v.toNat) := BitVec.msb_eq_decide v

theorem word_bit15_toInt (v : Word) : v.getLsbD 15 = decide (v.toInt < 0) := BitVec.msb_eq_toInt (x := v)

theorem word_toInt (v : Word) : v.toInt = if 32768 ≤ v.toNat then (v.toNat : Int) - 65536 else v.toNat := by
  rw [BitVec.toInt_eq_toNat_cond]; split <;> split <;> omega

/-- The flag function is given what the pair holds afterwards. -/
theorem State.aluPair_flagsBy (s : State) (d : Reg) {res : Word} {fn : FlagFn} {a b : Word} {f : Flags}
    {P : Flags → Prop} (hP : P f) :
    let t := s.aluPair d res (replaceFlags s.dev.flags fn ⟨a, b, res⟩ s.flags f)
    FlagsBy s t fn ⟨a, b, t.pair d⟩ P :=
  FlagsBy.of_replace (by rw [State.aluPair_flags, State.aluPair_pair]) hP

/-! ADIW and SBIW. -/

theorem addWord_toNat (a : Word) (K : BitVec 6) : (a + K.setWidth 16).toNat = (a.toNat + K.toNat) % 65536 := by
  rw [BitVec.toNat_add, BitVec.toNat_setWidth_of_le (by decide)]

theorem subWord_toNat (a : Word) (K : BitVec 6) :
    ((a - K.setWidth 16).toNat : Int) = ((a.toNat : Int) - K.toNat) % 65536 := by
  rw [BitVec.toNat_sub, BitVec.toNat_setWidth_of_le (by decide)]; omega

theorem flagsAdiw_eq (a : Word) (K : BitVec 6) (f : Flags) :
    flagsAdiw a (a + K.setWidth 16) f =
      { f with
        c := decide (65536 ≤ a.toNat + K.toNat)
        v := decide (32767 < a.toInt + K.toNat)
        s := decide (a.toInt + K.toNat < 0)
        n := decide (32768 ≤ (a.toNat + K.toNat) % 65536)
        z := decide ((a.toNat + K.toNat) % 65536 = 0) } := by
  have ha := a.isLt
  have hK := K.isLt
  simp only [flagsAdiw, word_bit15, word_toInt, beq_eq_decide_toNat, addWord_toNat, Flags.mk.injEq, true_and]
  refine ⟨?s, ?v, ?z, ?c⟩
  case s | v | c => grind
  case z => rfl

theorem flagsSbiw_eq (a : Word) (K : BitVec 6) (f : Flags) :
    flagsSbiw a (a - K.setWidth 16) f =
      { f with
        c := decide (a.toNat < K.toNat)
        v := decide (a.toInt - K.toNat < -32768)
        s := decide (a.toInt - K.toNat < 0)
        n := decide (32768 ≤ (a.toNat - K.toNat : Int) % 65536)
        z := decide (a.toNat = K.toNat) } := by
  have ha := a.isLt
  have hK := K.isLt
  have hres := subWord_toNat a K
  simp only [flagsSbiw, word_bit15, word_toInt, beq_eq_decide_toNat, Flags.mk.injEq, true_and]
  refine ⟨?s, ?v, ?n, ?z, ?c⟩
  case s | v | c => grind
  case n | z => grind

/-- Settles O25; that the pair is one of the four of R33 is not needed. -/
theorem wordAddSubtractEffect : Obligations.WordAddSubtractEffect := by
  intro s d K _
  refine ⟨⟨_, rfl, s.aluPair_wrotePair d _ _ ?adiw, s.aluPair_flagsBy d (flagsAdiw_eq _ K _)⟩,
    ⟨_, rfl, s.aluPair_wrotePair d _ _ (subWord_toNat _ K), s.aluPair_flagsBy d (flagsSbiw_eq _ K _)⟩⟩
  case adiw => rw [addWord_toNat]; rfl

/-! Products. -/

theorem product_unsigned (a b : Byte) : (a.setWidth 16 * b.setWidth 16).toNat = a.toNat * b.toNat := by
  have hlt : a.toNat * b.toNat < 256 * 256 := Nat.mul_lt_mul'' a.isLt b.isLt
  rw [BitVec.toNat_mul, BitVec.toNat_setWidth_of_le (by decide), BitVec.toNat_setWidth_of_le (by decide),
    Nat.mod_eq_of_lt (by omega)]

/-- A product of a signed byte and a factor of magnitude at most 255 is a 16-bit signed value. -/
theorem product_toInt {a : Byte} {y : Word} {n : Int} (hy : y.toInt = n) (hn : |n| ≤ 255) :
    (a.signExtend 16 * y).toInt = a.toInt * n := by
  have ha : |a.toInt| ≤ 128 := abs_le.mpr ⟨BitVec.le_toInt a, (BitVec.toInt_lt (x := a)).le⟩
  have hproduct : |a.toInt * n| ≤ 128 * 255 := by
    rw [abs_mul]; exact mul_le_mul ha hn (abs_nonneg n) (by decide)
  obtain ⟨hlo, hhi⟩ := abs_le.mp hproduct
  rw [BitVec.toInt_mul, BitVec.toInt_signExtend_of_le (by decide), hy]
  exact Int.bmod_eq_of_le_mul_two (by omega) (by omega)

theorem product_signed (a b : Byte) : (a.signExtend 16 * b.signExtend 16).toInt = a.toInt * b.toInt := by
  have hlo := BitVec.le_toInt b
  have hhi := BitVec.toInt_lt (x := b)
  exact product_toInt (BitVec.toInt_signExtend_of_le (by decide)) (abs_le.mpr ⟨by omega, by omega⟩)

theorem product_mixed (a b : Byte) : (a.signExtend 16 * b.setWidth 16).toInt = a.toInt * b.toNat := by
  have hb := b.isLt
  have hword : (b.setWidth 16).toInt = b.toNat := by
    rw [word_toInt, BitVec.toNat_setWidth_of_le (by decide), if_neg (by omega)]
  exact product_toInt hword (abs_le.mpr ⟨by omega, by omega⟩)

/-- MUL, MULS and MULSU write the product of the extended bytes and its flags. -/
theorem State.multiply_effect {s : State} {a b : Word} {o : StepOutcome State} {f : Flags}
    (ho : o = .next (s.multiply a b)) (hf : Machine.flagsMul (a * b) s.flags = f) :
    ∃ t, o = .next t ∧ t.pair 0 = a * b ∧ OtherRegs s t [0, 1] ∧ OnlyRegsSreg s t ∧ MovedBy s t 1 ∧
      FlagsBy s t .mul ⟨0, 0, t.pair 0⟩ (· = f) :=
  ⟨_, ho, s.aluPair_pair 0 _ _, OtherRegs.setPair s 0 _, rfl, MovedBy.advance_one rfl rfl, s.aluPair_flagsBy 0 hf⟩

theorem flagsMul_of_toNat {p : Word} {n : Nat} (hp : p.toNat = n) (f : Flags) :
    flagsMul p f = { f with c := decide (32768 ≤ n), z := decide (n = 0) } := by
  rw [flagsMul, word_bit15, beq_eq_decide_toNat, hp]; rfl

theorem flagsMul_of_toInt {p : Word} {n : Int} (hp : p.toInt = n) (f : Flags) :
    flagsMul p f = { f with c := decide (n < 0), z := decide (n = 0) } := by
  have hz : p = 0 ↔ n = 0 := by rw [← hp, ← BitVec.toInt_inj]; rfl
  rw [flagsMul, word_bit15_toInt, beq_eq_decide, decide_eq_decide.mpr hz, hp]

/-- Settles O26. -/
theorem multiplyEffect : Obligations.MultiplyEffect := by
  intro s d r
  have hmul := product_unsigned (s.reg d) (s.reg r)
  have hmuls := product_signed (s.reg d) (s.reg r)
  have hmulsu := product_mixed (s.reg d) (s.reg r)
  refine ⟨?mul, ?muls, ?mulsu⟩
  case mul =>
    obtain ⟨t, ho, hpair, hframe⟩ := State.multiply_effect (s := s) (o := exec (.mul d r) s) rfl
      (flagsMul_of_toNat hmul _)
    exact ⟨t, ho, by rw [hpair, hmul], hframe⟩
  case muls =>
    obtain ⟨t, ho, hpair, hframe⟩ := State.multiply_effect (s := s) (o := exec (.muls d r) s) rfl
      (flagsMul_of_toInt hmuls _)
    exact ⟨t, ho, by rw [hpair, hmuls], hframe⟩
  case mulsu =>
    obtain ⟨t, ho, hpair, hframe⟩ := State.multiply_effect (s := s) (o := exec (.mulsu d r) s) rfl
      (flagsMul_of_toInt hmulsu _)
    exact ⟨t, ho, by rw [hpair, hmulsu], hframe⟩

/-! Fractional products. -/

theorem doubled_toNat (p : Word) : (p <<< 1).toNat = 2 * p.toNat % 65536 := by
  rw [BitVec.toNat_shiftLeft, Nat.shiftLeft_eq, Nat.mul_comm]

theorem doubled_of_toInt {p : Word} {n : Int} (hp : p.toInt = n) : ((p <<< 1).toNat : Int) = 2 * n % 65536 := by
  have := word_toInt p
  rw [doubled_toNat]; omega

/-- FMUL, FMULS and FMULSU write twice the product of the extended bytes; C is of the product, Z of what is written. -/
theorem State.multiplyFractional_effect {s : State} {a b : Word} {o : StepOutcome State} {c : Bool}
    (ho : o = .next (s.multiplyFractional a b)) (hc : (a * b).getLsbD 15 = c) :
    ∃ t, o = .next t ∧ t.pair 0 = (a * b) <<< 1 ∧ OtherRegs s t [0, 1] ∧ OnlyRegsSreg s t ∧ MovedBy s t 1 ∧
      FlagsBy s t .fmul ⟨a * b, 0, t.pair 0⟩ (· = { s.flags with c := c, z := decide ((t.pair 0).toNat = 0) }) := by
  refine ⟨_, ho, s.aluPair_pair 0 _ _, OtherRegs.setPair s 0 _, rfl, MovedBy.advance_one rfl rfl,
    s.aluPair_flagsBy 0 ?_⟩
  rw [State.multiplyFractional, State.aluPair_pair, Machine.flagsFmul, hc, beq_eq_decide_toNat]; rfl

/-- Settles O27. -/
theorem fractionalMultiplyEffect : Obligations.FractionalMultiplyEffect := by
  intro s d r
  have hfmul := product_unsigned (s.reg d) (s.reg r)
  have hfmuls := product_signed (s.reg d) (s.reg r)
  have hfmulsu := product_mixed (s.reg d) (s.reg r)
  refine ⟨?fmul, ?fmuls, ?fmulsu⟩
  case fmul =>
    obtain ⟨t, ho, hpair, hframe⟩ := State.multiplyFractional_effect (s := s) (o := exec (.fmul d r) s) rfl
      ((word_bit15 _).trans (by rw [hfmul]))
    exact ⟨t, ho, by rw [hpair, doubled_toNat, hfmul], hframe⟩
  case fmuls =>
    obtain ⟨t, ho, hpair, hframe⟩ := State.multiplyFractional_effect (s := s) (o := exec (.fmuls d r) s) rfl
      ((word_bit15_toInt _).trans (by rw [hfmuls]))
    exact ⟨t, ho, by rw [hpair, doubled_of_toInt hfmuls], hframe⟩
  case fmulsu =>
    obtain ⟨t, ho, hpair, hframe⟩ := State.multiplyFractional_effect (s := s) (o := exec (.fmulsu d r) s) rfl
      ((word_bit15_toInt _).trans (by rw [hfmulsu]))
    exact ⟨t, ho, by rw [hpair, doubled_of_toInt hfmulsu], hframe⟩

end Sys2Proof.Machine
end

section
/-! O33, O34: the jumps and the branches of 41_branch.md. Each sets pc to a computed target and nothing else; what is to
be said is the number of the target (Laws/Stack.lean) and, of the branches, which base instruction each name spells. -/

namespace Sys2Proof.Machine

/-! JMP and CALL admit targets below 2^PC_BITS only (R204, R208). -/

theorem State.checkTarget_of_lt {s : State} {k : PcAddr} (h : k.toNat < 2 ^ s.dev.pcBits) : s.checkTarget k = .ok () :=
  if_pos h

theorem State.checkTarget_of_le {s : State} {k : PcAddr} (h : 2 ^ s.dev.pcBits ≤ k.toNat) :
    s.checkTarget k = refuse (.targetBeyondPc k.toNat) :=
  if_neg (Nat.not_lt.2 h)

/-! Jumps (R201 … R204). -/

theorem exec_jmp_of_lt {s : State} {k : PcAddr} (h : k.toNat < 2 ^ s.dev.pcBits) :
    exec (.jmp k) s = .next (s.setPc k) := by
  change execJmp k s = _
  rw [execJmp, State.checkTarget_of_lt h]
  rfl

theorem exec_jmp_of_le {s : State} {k : PcAddr} (h : 2 ^ s.dev.pcBits ≤ k.toNat) :
    exec (.jmp k) s = .refused (.targetBeyondPc k.toNat) := by
  change execJmp k s = _
  rw [execJmp, State.checkTarget_of_le h]
  rfl

theorem State.target12_movedBy (s : State) (k : BitVec 12) : MovedBy s (s.setPc (s.target12 k)) (k.toInt + 1) :=
  MovedBy.setPc rfl (s.target12_toNat k)

/-- Z as a target: 16 bits, which no device class cuts. -/
theorem State.wrap_z_toNat (s : State) :
    (s.dev.wrap ((s.ptr .z).setWidth 22)).toNat = 256 * (s.reg 31).toNat + (s.reg 30).toNat :=
  (Device.wrap_word _ _).trans (s.pair_toNat 30)

theorem Device.wrap_of_bits22 {c : Device} (h : c.pcClass = .bits22) (a : PcAddr) : c.wrap a = a := by
  unfold Device.wrap
  rw [h]

/-- Settles O33. -/
theorem jumpEffect : Obligations.JumpEffect := by
  intro s k12 k
  refine ⟨⟨_, rfl, rfl, s.target12_movedBy k12⟩, ⟨_, rfl, rfl, s.wrap_z_toNat⟩,
    fun hclass => ⟨_, rfl, rfl, ?eijmp⟩, fun hlt => ⟨_, exec_jmp_of_lt hlt, rfl, Device.wrap_of_lt _ k hlt⟩,
    exec_jmp_of_le⟩
  case eijmp => rw [State.setPc_pc, Device.wrap_of_bits22 hclass, State.eindZ_toNat]

/-! Branches (R219 … R238). -/

theorem State.branchIf_onlyPc (s : State) (c : Bool) (k : BitVec 7) : OnlyPc s (s.branchIf c k) := by
  cases c <;> rfl

theorem State.branchIf_movedBy (s : State) (c : Bool) (k : BitVec 7) :
    MovedBy s (s.branchIf c k) (if c then k.toInt + 1 else 1) := by
  cases c with
  | true => exact MovedBy.setPc rfl (s.target7_toNat k)
  | false => exact MovedBy.advance_one rfl rfl

/-- A branch of O34: what the instruction does when `c` is the test of its flag, and the word it is encoded as. -/
def BranchesOn (s : State) (k : BitVec 7) (f : Instr × Bool × Word) : Prop :=
  (∃ t, exec f.1 s = .next t ∧ OnlyPc s t ∧ MovedBy s t (if f.2.1 then k.toInt + 1 else 1)) ∧
  encode f.1 = [f.2.2] ∧ ∀ (core : CoreKind) (w2 : Word), decode core f.2.2 w2 = some (f.1.base core)

section
variable {k : BitVec 7} {i : Instr} {b : BitVec 3}

/-- BRBS and its aliases, which do what it does (O32) and have its word. -/
theorem BranchesOn.of_brbs (s : State) (hbase : ∀ core, i.base core = .brbs b k) :
    BranchesOn s k (i, s.sreg.getLsbD b.toNat, 0b111100#6 ++ k ++ b) := by
  refine ⟨⟨_, ?exec, s.branchIf_onlyPc _ k, s.branchIf_movedBy _ k⟩, ?encode, fun core w2 => ?decode⟩
  case exec => rw [aliasesMeanTheirBase .classic, hbase]; rfl
  case encode => rw [← encode_base .classic, hbase]; rfl
  case decode => rw [hbase]; exact (decode_encBR core w2 b k).1

/-- BRBC and its aliases. -/
theorem BranchesOn.of_brbc (s : State) (hbase : ∀ core, i.base core = .brbc b k) :
    BranchesOn s k (i, !s.sreg.getLsbD b.toNat, 0b111101#6 ++ k ++ b) := by
  refine ⟨⟨_, ?exec, s.branchIf_onlyPc _ k, s.branchIf_movedBy _ k⟩, ?encode, fun core w2 => ?decode⟩
  case exec => rw [aliasesMeanTheirBase .classic, hbase]; rfl
  case encode => rw [← encode_base .classic, hbase]; rfl
  case decode => rw [hbase]; exact (decode_encBR core w2 b k).2
end

/-- Settles O34: each of the twenty names is BRBS or BRBC of one flag. -/
theorem branchEffect : Obligations.BranchEffect := by
  intro s b k
  change ∀ f ∈ _, BranchesOn s k f
  have onSet {i} (bit) := BranchesOn.of_brbs (k := k) (i := i) (b := bit) s
  have onClear {i} (bit) := BranchesOn.of_brbc (k := k) (i := i) (b := bit) s
  simp only [List.forall_mem_cons, List.not_mem_nil, false_imp_iff, implies_true, and_true]
  refine ⟨onSet b ?brbs, onClear b ?brbc, onSet 1 ?breq, onClear 1 ?brne, onSet 0 ?brcs, onClear 0 ?brcc,
    onClear 0 ?brsh, onSet 0 ?brlo, onSet 2 ?brmi, onClear 2 ?brpl, onClear 4 ?brge, onSet 4 ?brlt, onSet 5 ?brhs,
    onClear 5 ?brhc, onSet 6 ?brts, onClear 6 ?brtc, onSet 3 ?brvs, onClear 3 ?brvc, onSet 7 ?brie, onClear 7 ?brid⟩
  all_goals exact fun _ => rfl

end Sys2Proof.Machine
end

section
/-! O35, O36: the skips of 41_branch.md R211, R215 … R218. All five are `skip` (R239) on one bit or comparison; what it
answers is said once, in the numbers of the words that are passed. -/

namespace Sys2Proof.Machine

/-! The two words after pc. -/

theorem State.wrap_pc_add_toNat (s : State) (n : PcAddr) :
    (s.dev.wrap (s.pc + n)).toNat = (s.pc.toNat + n.toNat) % 2 ^ s.dev.pcBits := by
  rw [Device.wrap_toNat, BitVec.toNat_add, Nat.mod_mod_of_dvd _ (Device.pow_pcBits_dvd _)]

theorem State.wrap_pc_add_one (s : State) : (s.dev.wrap (s.pc + 1)).toNat = (s.pc.toNat + 1) % 2 ^ s.dev.pcBits :=
  s.wrap_pc_add_toNat 1

theorem State.wrap_pc_add_two (s : State) : (s.dev.wrap (s.pc + 2)).toNat = (s.pc.toNat + 2) % 2 ^ s.dev.pcBits :=
  s.wrap_pc_add_toNat 2

theorem skipLen_toNat (w : Word) : (1 + BitVec.ofNat 22 (skipLen w)).toNat = 1 + skipLen w := by
  unfold skipLen
  split <;> rfl

theorem State.progWord?_isNone_iff {s : State} {a : Nat} : (s.progWord? a).isNone = true ↔ s.dev.flashWords ≤ a := by
  unfold State.progWord?
  split <;> simp <;> omega

/-- The test of `skip` for a two-word instruction that is cut off at `FLASH_WORDS`. -/
theorem State.secondWord_missing_iff {s : State} {w : Word} {a : Nat} :
    (isTwoWord w && (s.progWord? a).isNone) = true ↔ skipLen w = 2 ∧ s.dev.flashWords ≤ a := by
  rw [Bool.and_eq_true, State.progWord?_isNone_iff, and_congr_left_iff]
  exact fun _ => ⟨fun h => if_pos h, isTwoWord_of_skipLen⟩

/-! What a skip that is taken answers (R239, D2, D27). -/

section
variable {s : State} {w : Word}

theorem State.skip_taken (hw : s.progWord? ((s.pc.toNat + 1) % 2 ^ s.dev.pcBits) = some w)
    (hsecond : skipLen w = 2 → (s.pc.toNat + 2) % 2 ^ s.dev.pcBits < s.dev.flashWords) :
    s.skip true = .ok (s.advance (1 + BitVec.ofNat 22 (skipLen w))) := by
  rw [State.skip, if_pos rfl, State.wrap_pc_add_one, State.wrap_pc_add_two, hw]
  refine if_neg fun hmissing => ?_
  obtain ⟨htwo, hle⟩ := State.secondWord_missing_iff.1 hmissing
  exact Nat.not_lt.2 hle (hsecond htwo)

theorem State.skip_secondBeyondFlash (hw : s.progWord? ((s.pc.toNat + 1) % 2 ^ s.dev.pcBits) = some w)
    (htwo : skipLen w = 2) (hsecond : s.dev.flashWords ≤ (s.pc.toNat + 2) % 2 ^ s.dev.pcBits) :
    s.skip true = refuse (.skipBeyondFlash ((s.pc.toNat + 2) % 2 ^ s.dev.pcBits)) := by
  rw [State.skip, if_pos rfl, State.wrap_pc_add_one, State.wrap_pc_add_two, hw]
  exact if_pos (State.secondWord_missing_iff.2 ⟨htwo, hsecond⟩)

theorem State.skip_firstBeyondFlash (hfirst : s.dev.flashWords ≤ (s.pc.toNat + 1) % 2 ^ s.dev.pcBits) :
    s.skip true = refuse (.skipBeyondFlash ((s.pc.toNat + 1) % 2 ^ s.dev.pcBits)) := by
  rw [State.skip, if_pos rfl, State.wrap_pc_add_one, State.progWord?_eq_none hfirst]
end

/-- The four clauses of O35 and O36 for the outcome `o` of a skip on `c`; afterwards `n` free values have been drawn. -/
def SkipsOn (s : State) (n : Nat) (c : Bool) (o : StepOutcome State) : Prop :=
  (c = false → ∃ t, o = .next t ∧ t = { s with pc := t.pc, draws := n } ∧ MovedBy s t 1) ∧
  (∀ w, c = true → s.progWord? ((s.pc.toNat + 1) % 2 ^ s.dev.pcBits) = some w →
    (skipLen w = 2 → (s.pc.toNat + 2) % 2 ^ s.dev.pcBits < s.dev.flashWords) →
    ∃ t, o = .next t ∧ t = { s with pc := t.pc, draws := n } ∧ MovedBy s t (1 + skipLen w)) ∧
  (∀ w, c = true → s.progWord? ((s.pc.toNat + 1) % 2 ^ s.dev.pcBits) = some w → skipLen w = 2 →
    s.dev.flashWords ≤ (s.pc.toNat + 2) % 2 ^ s.dev.pcBits →
    o = .refused (.skipBeyondFlash ((s.pc.toNat + 2) % 2 ^ s.dev.pcBits))) ∧
  (c = true → s.dev.flashWords ≤ (s.pc.toNat + 1) % 2 ^ s.dev.pcBits →
    o = .refused (.skipBeyondFlash ((s.pc.toNat + 1) % 2 ^ s.dev.pcBits)))

theorem State.skip_skipsOn (s : State) (n : Nat) (c : Bool) :
    SkipsOn s n c (finish (State.skip { s with draws := n } c)) := by
  refine ⟨?notTaken, ?taken, ?second, ?first⟩
  case notTaken =>
    rintro rfl
    exact ⟨_, rfl, rfl, MovedBy.advance_one rfl rfl⟩
  case taken =>
    rintro w rfl hw hsecond
    rw [State.skip_taken (s := { s with draws := n }) hw hsecond]
    exact ⟨_, rfl, rfl, MovedBy.advance rfl rfl (by rw [skipLen_toNat]; rfl)⟩
  case second =>
    rintro w rfl hw htwo hsecond
    rw [State.skip_secondBeyondFlash (s := { s with draws := n }) hw htwo hsecond]
    rfl
  case first =>
    rintro rfl hfirst
    rw [State.skip_firstBeyondFlash (s := { s with draws := n }) hfirst]
    rfl

/-- Settles O35: no register skip draws a free value. -/
theorem registerSkipEffect : Obligations.RegisterSkipEffect := by
  intro s d r b
  change ∀ f ∈ (_ : List (Instr × Bool)), SkipsOn s s.draws f.2 (exec f.1 s)
  simp only [List.forall_mem_cons, List.not_mem_nil, false_imp_iff, implies_true, and_true]
  refine ⟨?cpse, s.skip_skipsOn _ _, s.skip_skipsOn _ _⟩
  case cpse =>
    rw [← beq_eq_decide]
    exact s.skip_skipsOn _ _

/-- Settles O36: the one read of the I/O register changes at most the number of draws. -/
theorem ioSkipEffect : Obligations.IoSkipEffect := by
  intro s A b v
  change ∀ f ∈ (_ : List (Instr × Bool)), SkipsOn s (s.ioRead (A.setWidth 6)).2.draws f.2 (exec f.1 s)
  have hskip (c : Bool) : SkipsOn s (s.ioRead (A.setWidth 6)).2.draws c
      (finish ((s.ioRead (A.setWidth 6)).2.skip c)) := by
    rw [State.ioRead_state]
    exact s.skip_skipsOn _ c
  simp only [List.forall_mem_cons, List.not_mem_nil, false_imp_iff, implies_true, and_true]
  exact ⟨hskip _, hskip _⟩

end Sys2Proof.Machine
end

section
/-! O37 … O39: the calls and returns of 41_branch.md R205 … R210. A call is a push of the return address and a change of
pc (`callTo`), a return is a pop and a change of pc; what push and pop do in SRAM is said in Laws/Stack.lean. -/

namespace Sys2Proof.Machine

/-! Calls. -/

theorem exec_call_of_lt {s : State} {k : PcAddr} (h : k.toNat < 2 ^ s.dev.pcBits) :
    exec (.call k) s = finish (s.callTo (s.pc + 2) k) := by
  change execCall k s = _
  rw [execCall, State.checkTarget_of_lt h]
  rfl

theorem exec_call_of_le {s : State} {k : PcAddr} (h : 2 ^ s.dev.pcBits ≤ k.toNat) :
    exec (.call k) s = .refused (.targetBeyondPc k.toNat) := by
  change execCall k s = _
  rw [execCall, State.checkTarget_of_le h]
  rfl

theorem State.callTo_of_push {s u : State} {ret target : PcAddr} (h : s.pushPc (s.dev.wrap ret) = .ok u) :
    s.callTo ret target = .ok (u.setPc target) := by
  rw [State.callTo, h]
  rfl

theorem State.callTo_of_push_error {s : State} {ret target : PcAddr} {e : Stop}
    (h : s.pushPc (s.dev.wrap ret) = .error e) : s.callTo ret target = .error e := by
  rw [State.callTo, h]
  rfl

theorem State.pushPc_dev {s u : State} {a : PcAddr} (h : s.pushPc a = .ok u) : u.dev = s.dev :=
  (State.pushPc_kept h).1.1

/-- The clauses of O37 for the outcome `o` of a call of `n` words to the address `target`. -/
def CallsTo (s : State) (o : StepOutcome State) (n target : Nat) : Prop :=
  ∃ ret : PcAddr, ret.toNat = (s.pc.toNat + n) % 2 ^ s.dev.pcBits ∧
    (s.stackInSram → ∃ t, o = .next t ∧ PushedAddress s t ret ∧
      t.pc.toNat = target ∧ t = { s with pc := t.pc, sp := t.sp, sram := t.sram }) ∧
    (∀ u, s.pushPc ret = .ok u → ∃ t, o = .next t ∧ t = { u with pc := t.pc } ∧ t.pc.toNat = target) ∧
    (∀ e, s.pushPc ret = .error e → o = finish (.error e))

theorem State.callTo_callsTo (s : State) (n : PcAddr) {target : PcAddr} {m : Nat} (hm : (s.dev.wrap target).toNat = m) :
    CallsTo s (finish (s.callTo (s.pc + n) target)) n.toNat m := by
  have hpc {u} (hu : s.pushPc (s.dev.wrap (s.pc + n)) = .ok u) : (u.setPc target).pc.toNat = m := by
    rw [State.setPc_pc, State.pushPc_dev hu, hm]
  refine ⟨_, s.wrap_pc_add_toNat n, fun hstack => ?inSram, fun u hu => ?pushed, fun e he => ?stopped⟩
  case inSram =>
    obtain ⟨u, hu, hpushed, hframe⟩ := s.pushPc_sram _ hstack
    rw [State.callTo_of_push hu]
    exact ⟨_, rfl, hpushed, hpc hu, congrArg (fun v : State => { v with pc := (u.setPc target).pc }) hframe⟩
  case pushed =>
    rw [State.callTo_of_push hu]
    exact ⟨_, rfl, rfl, hpc hu⟩
  case stopped => rw [State.callTo_of_push_error he]

theorem State.wrap_target12_toNat (s : State) (k : BitVec 12) :
    (s.dev.wrap (s.target12 k)).toNat = ((s.pc.toNat + k.toInt + 1) % 2 ^ s.dev.pcBits).toNat := by
  have hmoved : ((s.dev.wrap (s.target12 k)).toNat : Int) = (s.pc.toNat + (k.toInt + 1)) % 2 ^ s.dev.pcBits :=
    s.target12_movedBy k
  rw [Int.add_assoc, ← hmoved, Int.toNat_natCast]

theorem exec_rcall_callsTo (s : State) (k : BitVec 12) :
    CallsTo s (exec (.rcall k) s) 1 ((s.pc.toNat + k.toInt + 1) % 2 ^ s.dev.pcBits).toNat :=
  s.callTo_callsTo 1 (s.wrap_target12_toNat k)

theorem exec_icall_callsTo (s : State) : CallsTo s (exec .icall s) 1 (256 * (s.reg 31).toNat + (s.reg 30).toNat) :=
  s.callTo_callsTo 1 s.wrap_z_toNat

theorem exec_eicall_callsTo (s : State) : CallsTo s (exec .eicall s) 1
    ((65536 * (s.eind.toNat % 64) + 256 * (s.reg 31).toNat + (s.reg 30).toNat) % 2 ^ s.dev.pcBits) :=
  s.callTo_callsTo 1 (by rw [Device.wrap_toNat, State.eindZ_toNat])

theorem exec_call_callsTo {s : State} {k : PcAddr} (h : k.toNat < 2 ^ s.dev.pcBits) :
    CallsTo s (exec (.call k) s) 2 k.toNat := by
  rw [exec_call_of_lt h]
  exact s.callTo_callsTo 2 (congrArg BitVec.toNat (Device.wrap_of_lt _ _ h))

/-- Settles O37. -/
theorem callEffect : Obligations.CallEffect := by
  intro s k12 k
  refine ⟨?effect, exec_call_of_le⟩
  change ∀ f ∈ (_ : List (Instr × Nat × Nat)), (f.1 = .call k → _) → CallsTo s (exec f.1 s) f.2.1 f.2.2
  simp only [List.forall_mem_cons, List.not_mem_nil, false_imp_iff, implies_true, and_true]
  exact ⟨fun _ => exec_rcall_callsTo s k12, fun _ => exec_icall_callsTo s, fun _ => exec_eicall_callsTo s,
    fun h => exec_call_callsTo (h trivial)⟩

/-! Returns. -/

section
variable {s u : State} {a : PcAddr} {e : Stop}

theorem exec_ret_of_pop (h : s.popPc = .ok (a, u)) : exec .ret s = .next (u.setPc a) := by
  change execRet s = _
  rw [execRet, h]
  rfl

theorem exec_reti_of_pop (h : s.popPc = .ok (a, u)) :
    exec .reti s = .next { (u.setPc a).setSregBit 7 true with inhibit := true } := by
  change execReti s = _
  rw [execReti, State.returnFromInterrupt, h]
  rfl

theorem exec_ret_of_pop_error (h : s.popPc = .error e) : exec .ret s = finish (.error e) := by
  change execRet s = _
  rw [execRet, h]
  rfl

theorem exec_reti_of_pop_error (h : s.popPc = .error e) : exec .reti s = finish (.error e) := by
  change execReti s = _
  rw [execReti, State.returnFromInterrupt, h]
  rfl

theorem State.popPc_dev (h : s.popPc = .ok (a, u)) : u.dev = s.dev :=
  (State.popPc_kept h).1.1
end

theorem State.flags_setSregBit_i (s : State) (x : Bool) : (s.setSregBit 7 x).flags = { s.flags with i := x } := by
  obtain ⟨-, -, -, -, -, -, -, hi⟩ := s.setFlags_oneFlag x
  rw [← hi, State.flags_setFlags]

/-- Settles O38. -/
theorem returnEffect : Obligations.ReturnEffect := by
  refine fun s => ⟨fun a hholds ha => ?inSram, fun u a hpop => ?popped,
    fun e hstop => ⟨exec_ret_of_pop_error hstop, exec_reti_of_pop_error hstop⟩⟩
  case inSram =>
    have hpop := s.popPc_sram a hholds.readable ha
    have hpc : s.dev.wrap a = a := Device.wrap_of_lt _ a ha
    exact ⟨⟨_, exec_ret_of_pop hpop, hpc, rfl, rfl⟩,
      ⟨_, exec_reti_of_pop hpop, hpc, rfl, State.flags_setSregBit_i _ true, rfl⟩⟩
  case popped =>
    have hpc : (u.dev.wrap a).toNat = a.toNat % 2 ^ s.dev.pcBits := by
      rw [State.popPc_dev hpop, Device.wrap_toNat]
    exact ⟨⟨_, exec_ret_of_pop hpop, rfl, hpc⟩,
      ⟨_, exec_reti_of_pop hpop, rfl, hpc, State.flags_setSregBit_i _ true⟩⟩

/-! A call and its return. -/

theorem MovedBy.of_toNat {s u : State} {n : Nat} (h : u.pc.toNat = (s.pc.toNat + n) % 2 ^ s.dev.pcBits) :
    MovedBy s u n := by
  unfold MovedBy
  rw [h]
  push_cast
  rfl

/-- RET pops what the call pushed. -/
theorem CallsTo.ret_returns {s t : State} {n target : Nat} (hcall : CallsTo s (.next t) n target)
    (hstack : s.stackInSram) :
    ∃ u, exec .ret t = .next u ∧ MovedBy s u n ∧ u.sp = s.sp ∧ u = { s with pc := u.pc, sram := u.sram } := by
  obtain ⟨ret, hret, hsram, -, -⟩ := hcall
  obtain ⟨_, ho, hpushed, -, hframe⟩ := hsram hstack
  cases ho
  have hdev : t.dev = s.dev := by rw [hframe]
  have hlt : ret.toNat < 2 ^ s.dev.pcBits := hret ▸ Nat.mod_lt _ (Nat.two_pow_pos _)
  obtain ⟨hreadable, hsp⟩ := PushedAddress.holds s t ret hstack hpushed hdev
  have hpop := t.popPc_sram ret hreadable (hdev ▸ hlt)
  rw [hdev, hsp] at hpop
  have hpc : (s.dev.wrap ret).toNat = _ := (congrArg BitVec.toNat (Device.wrap_of_lt _ ret hlt)).trans hret
  refine ⟨_, exec_ret_of_pop hpop, MovedBy.of_toNat hpc, rfl, ?frame⟩
  case frame => rw [hframe]; rfl

/-- Settles O39: by O37, and since a CALL that is refused does not complete. -/
theorem callThenRetReturns : Obligations.CallThenRetReturns := by
  intro s t k12 k hstack
  simp only [List.forall_mem_cons, List.not_mem_nil, false_imp_iff, implies_true, and_true]
  refine ⟨fun h => (h ▸ exec_rcall_callsTo s k12).ret_returns hstack,
    fun h => (h ▸ exec_icall_callsTo s).ret_returns hstack, fun h => (h ▸ exec_eicall_callsTo s).ret_returns hstack,
    fun h => ?call⟩
  case call =>
    rcases Nat.lt_or_ge k.toNat (2 ^ s.dev.pcBits) with hlt | hge
    · exact (h ▸ exec_call_callsTo hlt).ret_returns hstack
    · rw [exec_call_of_le hge] at h
      cases h

end Sys2Proof.Machine
end

section
/-! O29, O54: the moves between general registers, of 42_data_transfer.md R261 … R263 and of R172 and R347, and SPM. -/

namespace Sys2Proof.Machine

/-- One register is written and pc passes one word. -/
theorem State.writeReg_effect {s : State} {d : Reg} {v : Byte} {o : StepOutcome State}
    (ho : o = .next ((s.setReg d v).advance 1)) :
    ∃ t, o = .next t ∧ t.reg d = v ∧ OtherRegs s t [d] ∧ OnlyRegs s t ∧ MovedBy s t 1 :=
  ⟨_, ho, s.reg_setReg_self d v, OtherRegs.setReg s d v, rfl, MovedBy.advance_one rfl rfl⟩

/-- The two halves of a pair that is written. -/
theorem State.setPair_wordOf (s : State) (d : Reg) (hi lo : Byte) :
    (s.setPair d (wordOf hi lo)).reg d = lo ∧ (s.setPair d (wordOf hi lo)).reg (d + 1) = hi := by
  rw [State.reg_setPair, State.reg_setPair, if_neg (Reg.succ_ne d).symm, if_pos rfl, if_pos rfl, lowByte_wordOf,
    highByte_wordOf]
  exact ⟨rfl, rfl⟩

theorem swapHalves_toNat : ∀ v : Byte,
    (v.extractLsb' 0 4 ++ v.extractLsb' 4 4 : Byte).toNat = 16 * (v.toNat % 16) + v.toNat / 16 := by
  decide

theorem Reg.high_of_le {d : Reg} (h : 16 ≤ d.toNat) : d.high = true := by
  revert d; decide

/-- SER is LDI of 255 (40_arithmetic_logic.md R172). -/
theorem encRI_ones (d : Reg) :
    (0b11101111#8 ++ d.extractLsb' 0 4 ++ 0b1111#4 : Word) = encRI 0xE#4 d 0xFF := by
  revert d; decide

/-- Settles O29: the values are those of the registers before, and the words those of the formats of O1. -/
theorem moveEffect : Obligations.MoveEffect := by
  intro s d r K core w2
  refine ⟨State.writeReg_effect rfl, fun _ _ => ?movw, State.writeReg_effect rfl, ?ser, ?swap, ?movWord,
    fun hd hr => decode_encNN_movw core w2 hd hr, fun hd => ⟨?ldiWord, ?serWord⟩, ?swapWord⟩
  case movw =>
    obtain ⟨hlow, hhigh⟩ := s.setPair_wordOf d (s.reg (r + 1)) (s.reg r)
    exact ⟨_, rfl, hlow, hhigh, OtherRegs.setPair s d _, rfl, MovedBy.advance_one rfl rfl⟩
  case ser =>
    obtain ⟨t, ho, hval, hframe⟩ := State.writeReg_effect (s := s) (o := exec (.ser d) s) rfl
    exact ⟨t, ho, congrArg BitVec.toNat hval, hframe⟩
  case swap =>
    obtain ⟨t, ho, hval, hframe⟩ := State.writeReg_effect (s := s) (o := exec (.swap d) s) rfl
    exact ⟨t, ho, (congrArg BitVec.toNat hval).trans (swapHalves_toNat _), hframe⟩
  case movWord =>
    change decode core (encRR 0b001011#6 d r) w2 = _
    simp only [decode_encRR]
  case ldiWord =>
    change decode core (encRI 0xE#4 d K) w2 = _
    simp only [decode_encRI core w2 (Reg.high_of_le hd)]
  case serWord =>
    rw [encRI_ones]
    simp only [decode_encRI core w2 (Reg.high_of_le hd)]
  case swapWord =>
    change decode core (encR1 0b1001010#7 d 0x2#4) w2 = _
    simp only [decode_encR1_oneReg]

/-- Settles O54. -/
theorem spmIsRefused : Obligations.SpmIsRefused :=
  ⟨by decide, by decide, fun _ => ⟨rfl, rfl⟩⟩

end Sys2Proof.Machine
end

section
/-! O40, O41: the loads and stores of 42_data_transfer.md that leave their address register alone. All are `load` or
`store` at an address, and what these do in each range of the data space is said once. -/

namespace Sys2Proof.Machine

/-! The data space by its ranges (20_memory.md R71, R73). -/

theorem State.memWrite_low {s : State} {a : Word} (h : a.toNat < 0x20) (v : Byte) :
    s.memWrite a v = .ok (s.setReg (a.setWidth 5) v) :=
  if_pos (Nat.le_of_lt_succ h)

theorem State.memWrite_io {s : State} {a : Word} (hlo : 0x20 ≤ a.toNat) (hhi : a.toNat < 0x60) (v : Byte) :
    s.memWrite a v = s.ioWrite ((a - 0x20).setWidth 6) v := by
  rw [State.memWrite, if_neg (by omega), if_pos (by omega)]; rfl

theorem State.memRead_io {s : State} {a : Word} (hlo : 0x20 ≤ a.toNat) (hhi : a.toNat < 0x60) :
    s.memRead a = .ok (s.ioRead ((a - 0x20).setWidth 6)) := by
  rw [State.memRead, if_neg (by omega), if_pos (by omega)]; rfl

/-- A read leaves everything but the number of draws. -/
theorem Reads.exists_draws {s u : State} {a : Word} {v : Byte} (h : Reads s a v u) : ∃ n, u = { s with draws := n } :=
  ⟨_, State.memRead_state h.memRead⟩

theorem Memory.get?_put_self (m : Memory) (a : Nat) (v : Byte) : Memory.get? (Memory.put m a v) a = some v := by
  rw [Memory.get?_put, if_pos rfl]

theorem OtherSram.of_put {s t : State} {a : Nat} {v : Byte} (ht : t.sram = Memory.put s.sram a v) :
    OtherSram s t [a] := by
  intro b hb
  rw [ht, Memory.get?_put, if_neg (by simpa using hb)]

/-! The addresses in numbers (20_memory.md R91, 42_data_transfer.md R265). -/

theorem State.ofNat_ptr (s : State) (p : Ptr) :
    BitVec.ofNat 16 (256 * (s.reg (p.low + 1)).toNat + (s.reg p.low).toNat) = s.ptr p := by
  rw [← State.ptr_toNat, BitVec.ofNat_toNat, BitVec.setWidth_eq]

theorem State.ofNat_displaced (s : State) (p : Ptr) (q : BitVec 6) :
    BitVec.ofNat 16 (256 * (s.reg (p.low + 1)).toNat + (s.reg p.low).toNat + q.toNat) = s.displaced p q := by
  rw [BitVec.ofNat_add, State.ofNat_ptr, BitVec.ofNat_toNat, State.displaced]

theorem ofNat_addr7 : ∀ k : BitVec 7,
    BitVec.ofNat 16 (if k.toNat / 16 % 2 = 0
      then 128 + 16 * (k.toNat / 32 % 2) + 32 * (k.toNat / 64) + k.toNat % 16
      else 64 + 16 * (k.toNat / 32 % 2) + 32 * (k.toNat / 64) + k.toNat % 16) = addr7 k := by
  decide

/-! Loads. -/

/-- The clauses of O40 for the outcome `o` of a load of `n` words from the data address `a`. -/
def LoadsFrom (s : State) (d : Reg) (o : StepOutcome State) (a : Word) (n : Nat) : Prop :=
  (∀ v u, Reads s a v u → ∃ t, o = .next t ∧ t.reg d = v ∧ OtherRegs s t [d] ∧
    t = { s with regs := t.regs, pc := t.pc, draws := u.draws } ∧ MovedBy s t n) ∧
  (s.inSram a → Memory.get? s.sram a.toNat = none → o = .fault (.sramUnwritten a.toNat)) ∧
  (0x60 ≤ a.toNat → s.dev.ramEnd < a.toNat → o = .refused (.dataAddressBeyondRam a.toNat)) ∧
  (0x60 ≤ a.toNat → a.toNat < s.dev.ramStart → a.toNat ≤ s.dev.ramEnd → o = .refused (.dataAddressBelowRam a.toNat))

theorem State.load_of_memRead_error {s : State} {a : Word} {e : Stop} (h : s.memRead a = .error e) (d : Reg)
    (n : PcAddr) : s.load d a n = .error e := by
  rw [State.load, h]; rfl

theorem State.load_loadsFrom (s : State) (d : Reg) (n : PcAddr) {a b : Word} (hb : b = a) :
    LoadsFrom s d (finish (s.load d a n)) b n.toNat := by
  subst hb
  have stop {e} (h : ReadStops s b e) : finish (s.load d b n) = finish (.error e) := by
    rw [State.load_of_memRead_error h.memRead]
  refine ⟨fun v u h => ?reads, fun hram hnone => stop (.inl ⟨hram, hnone, rfl⟩),
    fun hlo hend => stop (.inr (.inl ⟨hlo, hend, rfl⟩)),
    fun hlo hstart hend => stop (.inr (.inr ⟨hlo, hstart, hend, rfl⟩))⟩
  case reads =>
    obtain ⟨k, rfl⟩ := h.exists_draws
    rw [State.load_of_memRead h.memRead]
    exact ⟨_, rfl, State.reg_setReg_self _ d v, OtherRegs.setReg { s with draws := k } d v, rfl,
      MovedBy.advance rfl rfl rfl⟩

/-- Settles O40. -/
theorem loadEffect : Obligations.LoadEffect := by
  intro s d k k7 q
  change ∀ f ∈ (_ : List (Instr × Word × Nat)), LoadsFrom s d (exec f.1 s) f.2.1 f.2.2
  simp only [List.forall_mem_cons, List.not_mem_nil, false_imp_iff, implies_true, and_true]
  exact ⟨s.load_loadsFrom d 2 rfl, s.load_loadsFrom d 1 (ofNat_addr7 k7), s.load_loadsFrom d 1 (s.ofNat_ptr .x),
    s.load_loadsFrom d 1 (s.ofNat_ptr .y), s.load_loadsFrom d 1 (s.ofNat_ptr .z),
    s.load_loadsFrom d 1 (s.ofNat_displaced .y q), s.load_loadsFrom d 1 (s.ofNat_displaced .z q)⟩

/-! Stores. -/

/-- The clauses of O41 for the outcome `o` of a store of `n` words to the data address `a`. -/
def StoresTo (s : State) (r : Reg) (o : StepOutcome State) (a : Word) (n : Nat) : Prop :=
  (a.toNat < 0x20 → ∃ t, o = .next t ∧ t.reg (a.setWidth 5) = s.reg r ∧ OtherRegs s t [a.setWidth 5] ∧
    OnlyRegs s t ∧ MovedBy s t n) ∧
  (s.inSram a → ∃ t, o = .next t ∧ Memory.get? t.sram a.toNat = some (s.reg r) ∧ OtherSram s t [a.toNat] ∧
    t = { s with sram := t.sram, pc := t.pc } ∧ MovedBy s t n) ∧
  (0x20 ≤ a.toNat → a.toNat < 0x60 →
    (∀ u, s.ioWrite ((a - 0x20).setWidth 6) (s.reg r) = .ok u →
      ∃ t, o = .next t ∧ t = { u with pc := t.pc } ∧ MovedBy s t n) ∧
    (∀ e, s.ioWrite ((a - 0x20).setWidth 6) (s.reg r) = .error e → o = finish (.error e))) ∧
  (0x60 ≤ a.toNat → s.dev.ramEnd < a.toNat → o = .refused (.dataAddressBeyondRam a.toNat)) ∧
  (0x60 ≤ a.toNat → a.toNat < s.dev.ramStart → a.toNat ≤ s.dev.ramEnd → o = .refused (.dataAddressBelowRam a.toNat))

theorem State.store_of_memWrite_error {s : State} {a : Word} {r : Reg} {e : Stop}
    (h : s.memWrite a (s.reg r) = .error e) (n : PcAddr) : s.store r a n = .error e := by
  rw [State.store, h]; rfl

theorem State.store_storesTo (s : State) (r : Reg) (a : Word) (n : PcAddr) :
    StoresTo s r (finish (s.store r a n)) a n.toNat := by
  have stop {e} (h : WriteStops s a (s.reg r) e) : finish (s.store r a n) = finish (.error e) := by
    rw [State.store_of_memWrite_error h.memWrite]
  refine ⟨fun hlow => ?register, fun hram => ?sram, fun hlo hhi => ⟨fun u hu => ?io, fun e he => ?ioStops⟩,
    fun hlo hend => stop (.inr (.inl ⟨hlo, hend, rfl⟩)),
    fun hlo hstart hend => stop (.inr (.inr ⟨hlo, hstart, hend, rfl⟩))⟩
  case register =>
    rw [State.store_of_memWrite (State.memWrite_low hlow _)]
    exact ⟨_, rfl, State.reg_setReg_self s _ _, OtherRegs.setReg s _ _, rfl, MovedBy.advance rfl rfl rfl⟩
  case sram =>
    rw [State.store_of_memWrite (State.memWrite_sram hram)]
    exact ⟨_, rfl, Memory.get?_put_self .., OtherSram.of_put rfl, rfl, MovedBy.advance rfl rfl rfl⟩
  case io =>
    have hframe : IoFrame s u := State.ioWrite_frame hu
    rw [State.store_of_memWrite ((State.memWrite_io hlo hhi _).trans hu)]
    exact ⟨_, rfl, rfl, MovedBy.advance hframe.dev hframe.pc rfl⟩
  case ioStops => exact stop (.inl ⟨hlo, hhi, he⟩)

/-- Settles O41. -/
theorem storeEffect : Obligations.StoreEffect := by
  intro s r k k7 q
  change ∀ f ∈ (_ : List (Instr × Word × Nat)), StoresTo s r (exec f.1 s) f.2.1 f.2.2
  simp only [List.forall_mem_cons, List.not_mem_nil, false_imp_iff, implies_true, and_true]
  exact ⟨s.store_storesTo r k 2, s.store_storesTo r (addr7 k7) 1, s.store_storesTo r (s.ptr .x) 1,
    s.store_storesTo r (s.ptr .y) 1, s.store_storesTo r (s.ptr .z) 1, s.store_storesTo r (s.displaced .y q) 1,
    s.store_storesTo r (s.displaced .z q) 1⟩

end Sys2Proof.Machine
end

section
/-! O42 … O44: the loads and stores of 42_data_transfer.md with post-increment and pre-decrement. Once the checks of
R303 are passed, the address is none of the pointer's registers, so that the access and the move of the pointer commute; both
orders then are one access at an address with the pointer moved after it. -/

namespace Sys2Proof.Machine

/-! The checks of R303. -/

section
variable {p : Ptr} {r : Reg} {a : Word}

theorem Ptr.holds_iff : p.holds r = true ↔ r = p.low ∨ r = p.low + 1 := by
  simp [Ptr.holds]

theorem Ptr.not_holds (hlow : r ≠ p.low) (hhigh : r ≠ p.low + 1) : p.holds r = false := by
  rw [← Bool.not_eq_true, Ptr.holds_iff, not_or]
  exact ⟨hlow, hhigh⟩

theorem Ptr.at_iff : p.at a = true ↔ a.toNat = p.low.toNat ∨ a.toNat = p.low.toNat + 1 := by
  cases p <;> simp [Ptr.at, Ptr.low, ← BitVec.toNat_inj]

theorem Ptr.check_of_holds (h : p.holds r = true) : p.check r a = refuse .dataRegisterInPointer :=
  if_pos h

theorem Ptr.check_of_at (hr : p.holds r = false) (h : p.at a = true) :
    p.check r a = refuse .pointerAddressesItself := by
  rw [Ptr.check, if_neg (by simp [hr]), if_pos h]

theorem Ptr.check_ok (hr : p.holds r = false) (h : p.at a = false) : p.check r a = .ok () := by
  rw [Ptr.check, if_neg (by simp [hr]), if_neg (by simp [h])]

/-- A register that the data space reaches at an address outside the pointer is none of the pointer's. -/
theorem Ptr.not_holds_of_at (h : p.at a = false) (hlow : a.toNat < 0x20) : p.holds (a.setWidth 5) = false := by
  have hout : ¬ p.at a = true := by simp [h]
  rw [Ptr.at_iff, not_or] at hout
  have hnum : (a.setWidth 5).toNat = a.toNat := by rw [BitVec.toNat_setWidth, Nat.mod_eq_of_lt hlow]
  refine Ptr.not_holds (fun e => hout.1 (by rw [← hnum, e])) fun e => hout.2 ?_
  rw [← hnum, e]
  cases p <;> rfl
end

/-! The pointer and the other registers. -/

section
variable {p : Ptr} {r : Reg}

theorem State.reg_setPtr_of_not_holds (h : p.holds r = false) (s : State) (x : Word) :
    (s.setPtr p x).reg r = s.reg r := by
  have hout : ¬ p.holds r = true := by simp [h]
  rw [Ptr.holds_iff, not_or] at hout
  rw [State.setPtr, State.reg_setPair, if_neg hout.2, if_neg hout.1]

theorem State.setReg_comm {q r : Reg} (h : q ≠ r) (s : State) (v w : Byte) :
    (s.setReg q v).setReg r w = (s.setReg r w).setReg q v := by
  have hne : q.toNat ≠ r.toNat := fun e => h (BitVec.eq_of_toNat_eq e)
  simp only [State.setReg, Vector.set_comm v w hne]

theorem State.setPtr_setReg_comm (h : p.holds r = false) (s : State) (v : Byte) (x : Word) :
    (s.setPtr p x).setReg r v = (s.setReg r v).setPtr p x := by
  have hout : ¬ p.holds r = true := by simp [h]
  rw [Ptr.holds_iff, not_or] at hout
  obtain ⟨hlow, hhigh⟩ := hout
  simp only [State.setPtr, State.setPair, State.setReg_comm (Ne.symm hlow), State.setReg_comm (Ne.symm hhigh)]

theorem OtherRegs.setPtr (s : State) (p : Ptr) (x : Word) : OtherRegs s (s.setPtr p x) [p.low, p.low + 1] :=
  OtherRegs.setPair s p.low x

theorem OtherRegs.trans {s t u : State} {l m : List Reg} (h : OtherRegs s t l) (k : OtherRegs t u m) :
    OtherRegs s u (l ++ m) := by
  intro r hr
  rw [List.mem_append, not_or] at hr
  rw [k r hr.2, h r hr.1]
end

/-! No access to the I/O space reads or writes a general register. -/

theorem State.ioRead_setPtr (s : State) (p : Ptr) (x : Word) (A : IoAddr) :
    (s.setPtr p x).ioRead A = ((s.ioRead A).1, (s.ioRead A).2.setPtr p x) := by
  have hwindow : (s.setPtr p x).readEemwe = (s.readEemwe.1, s.readEemwe.2.setPtr p x) := by
    unfold State.readEemwe
    rw [State.setPtr_window]
    split
    · rfl
    · split <;> rfl
  unfold State.ioRead
  rw [State.setPtr_dev, hwindow]
  split <;> rfl

/-- The operation `f` neither reads nor writes the pointer, so that the pointer may be moved before it or after it. -/
def KeepsPtr (p : Ptr) (x : Word) (f : State → Res State) : Prop :=
  ∀ s : State, f (s.setPtr p x) = f s >>= fun u => .ok (u.setPtr p x)

section
variable {p : Ptr} {x : Word}

theorem KeepsPtr.bind {f g : State → Res State} (hf : KeepsPtr p x f) (hg : KeepsPtr p x g) :
    KeepsPtr p x (fun s => f s >>= g) := by
  intro s
  dsimp only
  rw [hf s]
  cases f s with
  | ok u => exact hg u
  | error e => rfl

theorem KeepsPtr.ite {c : State → Prop} {_ : ∀ s, Decidable (c s)} {f g : State → Res State}
    (hc : ∀ s, c (s.setPtr p x) ↔ c s) (hf : KeepsPtr p x f) (hg : KeepsPtr p x g) :
    KeepsPtr p x (fun s => if c s then f s else g s) := by
  intro s
  dsimp only
  by_cases h : c s
  · rw [if_pos h, if_pos ((hc s).2 h), hf s]
  · rw [if_neg h, if_neg (mt (hc s).1 h), hg s]

/-- A condition that is not about the state. -/
theorem KeepsPtr.iteConst {c : Prop} {_ : Decidable c} {f g : State → Res State} (hf : c → KeepsPtr p x f)
    (hg : ¬ c → KeepsPtr p x g) : KeepsPtr p x (fun s => if c then f s else g s) := by
  split
  · exact hf ‹_›
  · exact hg ‹_›

theorem KeepsPtr.ok {f : State → State} (h : ∀ s, f (s.setPtr p x) = (f s).setPtr p x) :
    KeepsPtr p x (fun s => .ok (f s)) := by
  intro s
  dsimp only
  rw [h s]
  rfl

theorem KeepsPtr.refuse {r : State → Refusal} (h : ∀ s, r (s.setPtr p x) = r s) :
    KeepsPtr p x (fun s => Machine.refuse (r s)) := by
  intro s
  dsimp only
  rw [h s]
  rfl

theorem State.startWrite_keepsPtr : KeepsPtr p x State.startWrite :=
  .ite (fun _ => .rfl) (.ok fun _ => rfl) (.refuse fun _ => rfl)

theorem State.setEemwe_keepsPtr : KeepsPtr p x State.setEemwe := by
  intro s
  unfold State.setEemwe
  rw [State.setPtr_window]
  split <;> rfl

theorem State.setEewe_keepsPtr (v2 : Bool) : KeepsPtr p x (State.setEewe · v2) :=
  .ite (fun _ => .rfl) (.ok fun _ => rfl) <| .ite (fun _ => .rfl) State.startWrite_keepsPtr <|
    .ite (fun _ => .rfl) (.refuse fun _ => rfl) <| .ite (fun _ => .rfl) (.refuse fun _ => rfl) (.ok fun _ => rfl)

theorem State.setEere_keepsPtr : KeepsPtr p x State.setEere :=
  .ite (fun _ => .rfl) (.refuse fun _ => rfl) <| .ite (fun _ => .rfl) (.ok fun _ => rfl) (.refuse fun _ => rfl)

theorem State.writeEnables_keepsPtr (v : Byte) : KeepsPtr p x (State.writeEnables · v) :=
  .ite (fun _ => .rfl) (State.setEewe_keepsPtr _) <|
    .ite (fun _ => .rfl) State.setEemwe_keepsPtr (.ok fun _ => rfl)

theorem State.writeEecr_keepsPtr (v : Byte) : KeepsPtr p x (State.writeEecr · v) := by
  have enables : KeepsPtr p x fun s => State.writeEnables { s with eerie := bitOf v 3 } v :=
    fun s => State.writeEnables_keepsPtr v { s with eerie := bitOf v 3 }
  have read : KeepsPtr p x fun s => if bitOf v 0 then s.setEere else .ok s :=
    .ite (fun _ => .rfl) State.setEere_keepsPtr (.ok fun _ => rfl)
  exact .ite (fun _ => .rfl) (.refuse fun _ => rfl) (enables.bind read)

theorem State.unlessBusy_keepsPtr {f : State → State} (h : ∀ s, f (s.setPtr p x) = (f s).setPtr p x) :
    KeepsPtr p x (fun s => s.unlessBusy (f s)) :=
  .ite (fun _ => .rfl) (.refuse fun _ => rfl) (.ok h)

theorem State.ioWrite_keepsPtr (A : IoAddr) (v : Byte) : KeepsPtr p x (State.ioWrite · A v) := by
  intro s
  dsimp only [State.ioWrite]
  rw [State.setPtr_dev]
  cases s.dev.ioReg A with
  | eecr => exact State.writeEecr_keepsPtr v s
  | eearl =>
    exact State.unlessBusy_keepsPtr (f := fun s => { s with eear := s.eear.extractLsb' 8 2 ++ v }) (fun _ => rfl) s
  | eearh =>
    exact State.unlessBusy_keepsPtr (f := fun s => { s with eear := v.extractLsb' 0 2 ++ s.eear.extractLsb' 0 8 })
      (fun _ => rfl) s
  | eedr => exact State.unlessBusy_keepsPtr (f := fun s => { s with eedr := v }) (fun _ => rfl) s
  | _ => rfl

/-! At an address outside the pointer the data space does not see the pointer. -/

variable {a : Word} (ha : p.at a = false)
include ha

theorem Reads.setPtr {s u : State} {v : Byte} (h : Reads s a v u) : Reads (s.setPtr p x) a v (u.setPtr p x) := by
  rcases h with ⟨hlow, rfl, rfl⟩ | ⟨hlo, hhi, h⟩ | ⟨hram, hbyte, rfl⟩
  · exact .inl ⟨hlow, (State.reg_setPtr_of_not_holds (Ptr.not_holds_of_at ha hlow) _ x).symm, rfl⟩
  · exact .inr (.inl ⟨hlo, hhi, by rw [State.ioRead_setPtr, ← h]⟩)
  · exact .inr (.inr ⟨hram, hbyte, rfl⟩)

theorem State.memWrite_keepsPtr (v : Byte) : KeepsPtr p x (State.memWrite · a v) := by
  have register (hlow : a.toNat ≤ 0x1F) : KeepsPtr p x fun s => .ok (s.setReg (a.setWidth 5) v) :=
    .ok fun s => State.setPtr_setReg_comm (Ptr.not_holds_of_at ha (by omega)) s v x
  exact .iteConst register fun _ => .iteConst (fun _ => State.ioWrite_keepsPtr _ v) fun _ =>
    .ite (fun _ => .rfl) (.refuse fun _ => rfl) <| .ite (fun _ => .rfl) (.refuse fun _ => rfl) (.ok fun _ => rfl)
end

/-! Both orders of access and change: what is left of each form after its checks. -/

/-- A write of Rr to address `a`, after which the pointer is `x`. -/
def State.storeMoving (s : State) (p : Ptr) (r : Reg) (a x : Word) : Res State := do
  let u ← s.memWrite a (s.reg r)
  .ok ((u.setPtr p x).advance 1)

section
variable {s u : State} {p : Ptr} {r : Reg} {v : Byte} {e : Stop} (hr : p.holds r = false)
include hr

theorem State.loadInc_of_reads (ha : p.at (s.ptr p) = false) (h : Reads s (s.ptr p) v u) :
    s.loadInc p r = .ok (((u.setReg r v).setPtr p (s.ptr p + 1)).advance 1) := by
  rw [State.loadInc, Ptr.check_ok hr ha, h.memRead]; rfl

theorem State.loadDec_of_reads (ha : p.at (s.ptr p - 1) = false) (h : Reads s (s.ptr p - 1) v u) :
    s.loadDec p r = .ok (((u.setReg r v).setPtr p (s.ptr p - 1)).advance 1) := by
  rw [State.loadDec, Ptr.check_ok hr ha, res_bind_ok, (Reads.setPtr ha h).memRead, ← State.setPtr_setReg_comm hr]; rfl

theorem State.loadInc_of_readStops (ha : p.at (s.ptr p) = false) (h : ReadStops s (s.ptr p) e) :
    s.loadInc p r = .error e := by
  rw [State.loadInc, Ptr.check_ok hr ha, h.memRead]; rfl

/-- Where and why a read stops does not depend on the registers. -/
theorem State.loadDec_of_readStops (ha : p.at (s.ptr p - 1) = false) (h : ReadStops s (s.ptr p - 1) e) :
    s.loadDec p r = .error e := by
  have hmoved : ReadStops (s.setPtr p (s.ptr p - 1)) (s.ptr p - 1) e := h
  rw [State.loadDec, Ptr.check_ok hr ha, res_bind_ok, hmoved.memRead]; rfl

theorem State.storeInc_eq_storeMoving (ha : p.at (s.ptr p) = false) :
    s.storeInc p r = s.storeMoving p r (s.ptr p) (s.ptr p + 1) := by
  rw [State.storeInc, Ptr.check_ok hr ha]; rfl

theorem State.storeDec_eq_storeMoving (ha : p.at (s.ptr p - 1) = false) :
    s.storeDec p r = s.storeMoving p r (s.ptr p - 1) (s.ptr p - 1) := by
  have hkeeps := State.memWrite_keepsPtr ha (x := s.ptr p - 1) (s.reg r) s
  dsimp only at hkeeps
  rw [State.storeDec, Ptr.check_ok hr ha, res_bind_ok, hkeeps, State.storeMoving]
  cases s.memWrite (s.ptr p - 1) (s.reg r) <;> rfl
end

/-! Loads (R267, R268, R270, R271, R274, R275). -/

/-- What a load leaves that has moved the pointer to `x`. -/
theorem Reads.moving_effect {s u : State} {p : Ptr} {d : Reg} {a : Word} {v : Byte} (h : Reads s a v u)
    (hd : p.holds d = false) (x : Word) :
    let t := ((u.setReg d v).setPtr p x).advance 1
    t.reg d = v ∧ t.ptr p = x ∧ OtherRegs s t [d, p.low, p.low + 1] ∧
      t = { s with regs := t.regs, pc := t.pc, draws := u.draws } ∧ MovedBy s t 1 := by
  obtain ⟨n, rfl⟩ := h.exists_draws
  refine ⟨?rd, State.ptr_setPtr _ p x, ?others, rfl, MovedBy.advance_one rfl rfl⟩
  case rd => rw [State.reg_advance, State.reg_setPtr_of_not_holds hd, State.reg_setReg_self]
  case others => exact (OtherRegs.setReg { s with draws := n } d v).trans (OtherRegs.setPtr _ p x)

theorem add_one_toNat_word (a : Word) : (a + 1).toNat = (a.toNat + 1) % 65536 := BitVec.toNat_add a 1

theorem sub_one_toNat_word (a : Word) : (a - 1).toNat = (a.toNat + 65535) % 65536 := by
  rw [BitVec.toNat_sub, Nat.add_comm]; rfl

/-- Settles O42. -/
theorem loadChangedPointerEffect : Obligations.LoadChangedPointerEffect := by
  intro s u d v e
  have hinc : ∀ f ∈ ([(.ldXInc d, .x), (.ldYInc d, .y), (.ldZInc d, .z)] : List (Instr × Ptr)),
      exec f.1 s = finish (s.loadInc f.2 d) := by
    simp only [List.forall_mem_cons, List.not_mem_nil, false_imp_iff, implies_true, and_true]
    exact ⟨rfl, rfl, rfl⟩
  have hdec : ∀ g ∈ ([(.ldXDec d, .x), (.ldYDec d, .y), (.ldZDec d, .z)] : List (Instr × Ptr)),
      exec g.1 s = finish (s.loadDec g.2 d) := by
    simp only [List.forall_mem_cons, List.not_mem_nil, false_imp_iff, implies_true, and_true]
    exact ⟨rfl, rfl, rfl⟩
  intro f hf g hg
  rw [hinc f hf, hdec g hg]
  refine ⟨fun hlow hhigh ha h => ?incReads, fun hlow hhigh ha h => ?incStops, fun hlow hhigh ha h => ?decStops,
    fun hlow hhigh ha h => ?decReads⟩
  all_goals have hd := Ptr.not_holds hlow hhigh
  case incReads =>
    obtain ⟨hrd, hptr, hframe⟩ := h.moving_effect hd (s.ptr f.2 + 1)
    rw [State.loadInc_of_reads hd ha h]
    exact ⟨_, rfl, hrd, by rw [hptr, add_one_toNat_word], hframe⟩
  case decReads =>
    obtain ⟨hrd, hptr, hframe⟩ := h.moving_effect hd (s.ptr g.2 - 1)
    rw [State.loadDec_of_reads hd ha h]
    exact ⟨_, rfl, hrd, by rw [hptr, sub_one_toNat_word], hframe⟩
  case incStops => rw [State.loadInc_of_readStops hd ha h]
  case decStops => rw [State.loadDec_of_readStops hd ha h]

/-! Stores (R280, R281, R283, R284, R287, R288). -/

/-- The clauses of O43 for the outcome `o` of a store to address `a` that leaves `x` in the pointer. -/
def StoresMoving (s : State) (r : Reg) (o : StepOutcome State) (p : Ptr) (a x : Word) : Prop :=
  (s.inSram a → ∃ t, o = .next t ∧ Memory.get? t.sram a.toNat = some (s.reg r) ∧ OtherSram s t [a.toNat] ∧
    t.ptr p = x ∧ OtherRegs s t [p.low, p.low + 1] ∧ t = { s with sram := t.sram, regs := t.regs, pc := t.pc } ∧
    MovedBy s t 1) ∧
  (a.toNat < 0x20 → ∃ t, o = .next t ∧ t.reg (a.setWidth 5) = s.reg r ∧ t.ptr p = x ∧
    OtherRegs s t [a.setWidth 5, p.low, p.low + 1] ∧ OnlyRegs s t ∧ MovedBy s t 1) ∧
  (0x20 ≤ a.toNat → a.toNat < 0x60 → ∀ u, s.ioWrite ((a - 0x20).setWidth 6) (s.reg r) = .ok u →
    ∃ t, o = .next t ∧ t.ptr p = x ∧ OtherRegs s t [p.low, p.low + 1] ∧ t = { u with regs := t.regs, pc := t.pc } ∧
      MovedBy s t 1) ∧
  (∀ e, WriteStops s a (s.reg r) e → o = finish (.error e))

theorem State.storeMoving_of_memWrite {s u : State} {r : Reg} {a : Word} (h : s.memWrite a (s.reg r) = .ok u) (p : Ptr)
    (x : Word) : s.storeMoving p r a x = .ok ((u.setPtr p x).advance 1) := by
  rw [State.storeMoving, h]; rfl

theorem IoFrame.regs {s t : State} (h : IoFrame s t) : t.regs = s.regs := by rw [h]

theorem State.storeMoving_storesMoving {s : State} {p : Ptr} {a : Word} (ha : p.at a = false) (r : Reg) (x : Word) :
    StoresMoving s r (finish (s.storeMoving p r a x)) p a x := by
  refine ⟨fun hram => ?sram, fun hlow => ?register, fun hlo hhi u hu => ?io, fun e h => ?stops⟩
  case sram =>
    rw [State.storeMoving_of_memWrite (State.memWrite_sram hram)]
    exact ⟨_, rfl, Memory.get?_put_self .., OtherSram.of_put rfl, State.ptr_setPtr _ p x, OtherRegs.setPtr s p x, rfl,
      MovedBy.advance_one rfl rfl⟩
  case register =>
    rw [State.storeMoving_of_memWrite (State.memWrite_low hlow _)]
    refine ⟨_, rfl, ?stored, State.ptr_setPtr _ p x, ?others, rfl, MovedBy.advance_one rfl rfl⟩
    case stored =>
      rw [State.reg_advance, State.reg_setPtr_of_not_holds (Ptr.not_holds_of_at ha hlow), State.reg_setReg_self]
    case others => exact (OtherRegs.setReg s _ _).trans (OtherRegs.setPtr _ p x)
  case io =>
    have hframe : IoFrame s u := State.ioWrite_frame hu
    have hsame : OtherRegs s u [] := fun q _ => State.reg_congr hframe.regs q
    rw [State.storeMoving_of_memWrite ((State.memWrite_io hlo hhi _).trans hu)]
    exact ⟨_, rfl, State.ptr_setPtr _ p x, hsame.trans (OtherRegs.setPtr u p x), rfl,
      MovedBy.advance_one hframe.dev hframe.pc⟩
  case stops =>
    rw [State.storeMoving, h.memWrite]
    rfl

/-- Settles O43. -/
theorem storeChangedPointerEffect : Obligations.StoreChangedPointerEffect := by
  intro s r
  change ∀ f ∈ (_ : List (Instr × Ptr × Word × Word)), r ≠ f.2.1.low → r ≠ f.2.1.low + 1 → f.2.1.at f.2.2.1 = false →
    StoresMoving s r (exec f.1 s) f.2.1 f.2.2.1 f.2.2.2
  have inc (p : Ptr) (hlow : r ≠ p.low) (hhigh : r ≠ p.low + 1) (ha : p.at (s.ptr p) = false) :
      StoresMoving s r (finish (s.storeInc p r)) p (s.ptr p) (s.ptr p + 1) := by
    rw [State.storeInc_eq_storeMoving (Ptr.not_holds hlow hhigh) ha]
    exact State.storeMoving_storesMoving ha r _
  have dec (p : Ptr) (hlow : r ≠ p.low) (hhigh : r ≠ p.low + 1) (ha : p.at (s.ptr p - 1) = false) :
      StoresMoving s r (finish (s.storeDec p r)) p (s.ptr p - 1) (s.ptr p - 1) := by
    rw [State.storeDec_eq_storeMoving (Ptr.not_holds hlow hhigh) ha]
    exact State.storeMoving_storesMoving ha r _
  simp only [List.forall_mem_cons, List.not_mem_nil, false_imp_iff, implies_true, and_true]
  exact ⟨inc .x, inc .y, inc .z, dec .x, dec .y, dec .z⟩

/-! Refusals (R303 items 2 and 3). -/

/-- The instruction begins with the check of its pointer, at the pointer's value less `f.2.2`. -/
def ChecksPointer (s : State) (r : Reg) (f : Instr × Ptr × Word) : Prop :=
  ∃ rest : Unit → Res State, exec f.1 s = finish (f.2.1.check r (s.ptr f.2.1 - f.2.2) >>= rest)

theorem ChecksPointer.refuses {s : State} {r : Reg} {f : Instr × Ptr × Word} (h : ChecksPointer s r f) :
    (r = f.2.1.low ∨ r = f.2.1.low + 1 → exec f.1 s = .refused .dataRegisterInPointer) ∧
    (r ≠ f.2.1.low → r ≠ f.2.1.low + 1 →
      ((s.ptr f.2.1 - f.2.2).toNat = f.2.1.low.toNat ∨ (s.ptr f.2.1 - f.2.2).toNat = f.2.1.low.toNat + 1) →
      exec f.1 s = .refused .pointerAddressesItself) := by
  obtain ⟨rest, hrest⟩ := h
  rw [hrest]
  refine ⟨fun hr => ?data, fun hlow hhigh ha => ?address⟩
  case data => rw [Ptr.check_of_holds (Ptr.holds_iff.2 hr)]; rfl
  case address => rw [Ptr.check_of_at (Ptr.not_holds hlow hhigh) (Ptr.at_iff.2 ha)]; rfl

theorem ChecksPointer.of_inc {s : State} {r : Reg} {i : Instr} {p : Ptr} {rest : Unit → Res State}
    (h : exec i s = finish (p.check r (s.ptr p) >>= rest)) : ChecksPointer s r (i, p, 0) := by
  refine ⟨rest, h.trans ?_⟩
  rw [show s.ptr p - 0 = s.ptr p from BitVec.sub_zero _]

/-- Settles O44. -/
theorem pointerOverlapRefused : Obligations.PointerOverlapRefused := by
  intro s r
  have checks : ∀ f ∈ ([(.ldXInc r, .x, 0), (.ldYInc r, .y, 0), (.ldZInc r, .z, 0), (.stXInc r, .x, 0),
      (.stYInc r, .y, 0), (.stZInc r, .z, 0), (.ldXDec r, .x, 1), (.ldYDec r, .y, 1), (.ldZDec r, .z, 1),
      (.stXDec r, .x, 1), (.stYDec r, .y, 1), (.stZDec r, .z, 1)] : List (Instr × Ptr × Word)),
      ChecksPointer s r f := by
    simp only [List.forall_mem_cons, List.not_mem_nil, false_imp_iff, implies_true, and_true]
    exact ⟨.of_inc rfl, .of_inc rfl, .of_inc rfl, .of_inc rfl, .of_inc rfl, .of_inc rfl,
      ⟨_, rfl⟩, ⟨_, rfl⟩, ⟨_, rfl⟩, ⟨_, rfl⟩, ⟨_, rfl⟩, ⟨_, rfl⟩⟩
  refine ⟨fun f hf => (checks f hf).refuses, ?program⟩
  case program => rintro (rfl | rfl) <;> exact ⟨rfl, rfl⟩

end Sys2Proof.Machine
end

section
/-! O45: the reads of program memory by LPM and ELPM (42_data_transfer.md R290 … R295). The byte at an address and the
refusal beyond `FLASH_WORDS` are said once in numbers; the forms differ in the address and in the register written. -/

namespace Sys2Proof.Machine

/-! Bytes and addresses in numbers. -/

theorem lowByte_toNat (w : Word) : (lowByte w).toNat = w.toNat % 256 := by
  rw [lowByte, BitVec.extractLsb'_toNat, Nat.shiftRight_zero]

theorem highByte_toNat (w : Word) : (highByte w).toNat = w.toNat / 256 := by
  have hw := w.isLt
  rw [highByte, BitVec.extractLsb'_toNat, Nat.shiftRight_eq_div_pow]
  omega

theorem State.zByte_toNat (s : State) : s.zByte.toNat = 256 * (s.reg 31).toNat + (s.reg 30).toNat := by
  rw [State.zByte, BitVec.toNat_setWidth_of_le (by decide)]
  exact s.ptr_toNat .z

theorem State.rampzZ_toNat (s : State) :
    s.rampzZ.toNat = 65536 * s.rampz.toNat + (256 * (s.reg 31).toNat + (s.reg 30).toNat) := by
  have hz : (s.ptr .z).toNat = 256 * (s.reg 31).toNat + (s.reg 30).toNat := s.ptr_toNat .z
  rw [State.rampzZ, BitVec.toNat_append, ← Nat.shiftLeft_add_eq_or_of_lt (s.ptr .z).isLt, Nat.shiftLeft_eq, hz,
    Nat.mul_comm]

/-! The byte at a byte address (20_memory.md R75). -/

section
variable {s : State} {b : ProgByteAddr}

theorem State.progByte_of_progWord {w : Word} (h : s.progWord? (b.toNat / 2) = some w) :
    ∃ v, s.progByte b = .ok v ∧ v.toNat = if b.toNat % 2 = 0 then w.toNat % 256 else w.toNat / 256 := by
  refine ⟨_, by rw [State.progByte, h], ?_⟩
  rw [apply_ite BitVec.toNat, lowByte_toNat, highByte_toNat]

theorem State.progByte_beyondFlash (h : s.dev.flashWords ≤ b.toNat / 2) :
    s.progByte b = refuse (.programReadBeyondFlash b.toNat) := by
  rw [State.progByte, State.progWord?_eq_none h]
end

/-! The forms that leave Z alone. -/

/-- The two clauses of O45 for the outcome `o` of a read of the byte at `b` into Rd. -/
def LoadsProgram (s : State) (o : StepOutcome State) (d : Reg) (b : Nat) : Prop :=
  (∀ w, s.progWord? (b / 2) = some w → ∃ t, o = .next t ∧
    (t.reg d).toNat = (if b % 2 = 0 then w.toNat % 256 else w.toNat / 256) ∧
    OtherRegs s t [d] ∧ OnlyRegs s t ∧ MovedBy s t 1) ∧
  (s.dev.flashWords ≤ b / 2 → o = .refused (.programReadBeyondFlash b))

theorem State.loadProgram_loadsProgram (s : State) (d : Reg) {b : ProgByteAddr} {n : Nat} (hn : b.toNat = n) :
    LoadsProgram s (finish (s.loadProgram d b)) d n := by
  subst hn
  refine ⟨fun w hw => ?reads, fun hbeyond => ?refused⟩
  case reads =>
    obtain ⟨v, hv, hnum⟩ := State.progByte_of_progWord hw
    obtain ⟨t, ht, hrd, hframe⟩ := State.writeReg_effect (s := s) (d := d) (v := v) rfl
    refine ⟨t, ?_, by rw [hrd, hnum], hframe⟩
    rw [State.loadProgram, hv]
    exact ht
  case refused => rw [State.loadProgram, State.progByte_beyondFlash hbeyond]; rfl

/-! The forms with Z+, once Rd is not a half of Z. -/

section
variable {d : Reg} (hd : Ptr.z.holds d = false) (s : State)
include hd

theorem exec_lpmZInc : exec (.lpmZInc d) s =
    finish (s.progByte s.zByte >>= fun v => .ok (((s.setReg d v).setPtr .z (s.ptr .z + 1)).advance 1)) := by
  change execLpmZInc d s = _
  rw [execLpmZInc, hd]
  rfl

theorem exec_elpmZInc : exec (.elpmZInc d) s =
    finish (s.progByte s.rampzZ >>= fun v => .ok (((s.setReg d v).setRampzZ (s.rampzZ + 1)).advance 1)) := by
  change execElpmZInc d s = _
  rw [execElpmZInc, hd]
  rfl

/-- Rd and Z are written, in that order. -/
theorem State.setReg_setPtr_z_effect (v : Byte) (x : Word) :
    let t := (s.setReg d v).setPtr .z x
    t.reg d = v ∧ t.ptr .z = x ∧ OtherRegs s t [d, 30, 31] := by
  refine ⟨?rd, State.ptr_setPtr _ .z x, (OtherRegs.setReg s d v).trans (OtherRegs.setPtr _ .z x)⟩
  case rd => rw [State.reg_setPtr_of_not_holds hd, State.reg_setReg_self]
end

/-- The increment of `RAMPZ : Z`, by its two parts (R295). -/
theorem succ_parts (b : ProgByteAddr) :
    ((b + 1).extractLsb' 0 16).toNat = (b.toNat + 1) % 65536 ∧
      (b + 1).extractLsb' 16 8 = BitVec.ofNat 8 ((b.toNat + 1) / 65536) := by
  have hsucc : (b + 1).toNat = (b.toNat + 1) % 16777216 := BitVec.toNat_add b 1
  refine ⟨?low, BitVec.eq_of_toNat_eq ?high⟩
  case low => rw [BitVec.extractLsb'_toNat, Nat.shiftRight_zero, hsucc]; omega
  case high =>
    rw [BitVec.extractLsb'_toNat, Nat.shiftRight_eq_div_pow, hsucc, BitVec.toNat_ofNat]
    omega

/-- Settles O45. -/
theorem programLoadEffect : Obligations.ProgramLoadEffect := by
  intro s d z e
  have hz : s.zByte.toNat = z := s.zByte_toNat
  have he : s.rampzZ.toNat = e := s.rampzZ_toNat
  refine ⟨?still, fun h30 h31 => ?inc⟩
  case still =>
    change ∀ f ∈ (_ : List (Instr × Reg × Nat)), LoadsProgram s (exec f.1 s) f.2.1 f.2.2
    simp only [List.forall_mem_cons, List.not_mem_nil, false_imp_iff, implies_true, and_true]
    exact ⟨s.loadProgram_loadsProgram 0 hz, s.loadProgram_loadsProgram d hz, s.loadProgram_loadsProgram 0 he,
      s.loadProgram_loadsProgram d he⟩
  case inc =>
    have hd : Ptr.z.holds d = false := Ptr.not_holds h30 h31
    rw [exec_lpmZInc hd, exec_elpmZInc hd, ← hz, ← he]
    refine ⟨fun w hw => ?lpm, fun w hw => ?elpm, fun h => ?lpmRefused, fun h => ?elpmRefused⟩
    case lpm =>
      obtain ⟨v, hv, hnum⟩ := State.progByte_of_progWord hw
      obtain ⟨hrd, hptr, hothers⟩ := s.setReg_setPtr_z_effect hd v (s.ptr .z + 1)
      have hptrZ : (s.ptr .z).toNat = s.zByte.toNat := (s.ptr_toNat .z).trans s.zByte_toNat.symm
      rw [hv]
      exact ⟨_, rfl, (congrArg BitVec.toNat hrd).trans hnum,
        (congrArg BitVec.toNat hptr).trans (by rw [add_one_toNat_word, hptrZ]), hothers, rfl,
        MovedBy.advance_one rfl rfl⟩
    case elpm =>
      obtain ⟨v, hv, hnum⟩ := State.progByte_of_progWord hw
      obtain ⟨hlow, hhigh⟩ := succ_parts s.rampzZ
      obtain ⟨hrd, hptr, hothers⟩ := s.setReg_setPtr_z_effect hd v ((s.rampzZ + 1).extractLsb' 0 16)
      rw [hv]
      exact ⟨_, rfl, (congrArg BitVec.toNat hrd).trans hnum, (congrArg BitVec.toNat hptr).trans hlow,
        congrArg (· &&& s.dev.rampzMask) hhigh, hothers, rfl, MovedBy.advance_one rfl rfl⟩
    case lpmRefused => rw [State.progByte_beyondFlash h]; rfl
    case elpmRefused => rw [State.progByte_beyondFlash h]; rfl

end Sys2Proof.Machine
end

section
/-! O46, O47: IN and OUT by the register at their address. The registers that a device describes are written down as a
table, in the order of `describedAddrs`; on a consistent device no address stands in it twice, so that `ioReg` finds
every entry. -/

namespace Sys2Proof

/-! What the consistency of a device says of its I/O addresses (00_scope.md R7, 10_state.md R44). -/

section
variable {c : Device} (hwf : c.wf = true)
include hwf

theorem Device.describedAddrs_nodup : c.describedAddrs.Nodup := by
  simp only [Device.wf, Bool.and_eq_true, decide_eq_true_eq] at hwf
  obtain ⟨⟨-, hnodup⟩, -⟩ := hwf
  exact hnodup

theorem Device.gpiorAddrs_length_le : c.gpiorAddrs.length ≤ 3 := by
  simp only [Device.wf, Bool.and_eq_true, decide_eq_true_eq] at hwf
  obtain ⟨⟨⟨⟨-, hlength⟩, -⟩, -⟩, -⟩ := hwf
  exact hlength

/-- EIND needs the 22-bit class, so that its implemented bits are the low six (41_branch.md R203, D31). -/
theorem Device.eindMask_of_hasEind (h : c.hasEind = true) : c.eindMask = 0x3F := by
  simp only [Device.wf, Bool.and_eq_true, Bool.or_eq_true, Bool.not_eq_true', decide_eq_true_eq] at hwf
  obtain ⟨⟨⟨⟨⟨⟨⟨⟨hclass, -⟩, -⟩, -⟩, -⟩, -⟩, -⟩, -⟩, -⟩ := hwf
  rw [h] at hclass
  rw [Device.eindMask, hclass.resolve_left nofun]
end

/-! The table of described registers. -/

/-- The described registers with their addresses, in the order of `describedAddrs`. -/
def Device.ioTable (c : Device) : List (IoAddr × IoReg) :=
  [(0x3F, IoReg.sreg), (c.splAddr, IoReg.spl), (c.sphAddr, IoReg.sph), (c.eearlAddr, IoReg.eearl),
    (c.eearhAddr, IoReg.eearh), (c.eedrAddr, IoReg.eedr), (c.eecrAddr, IoReg.eecr)] ++
    (if c.hasRampz then [(c.rampzAddr, IoReg.rampz)] else []) ++
    (if c.hasEind then [(c.eindAddr, IoReg.eind)] else []) ++
    c.gpiorAddrs.zip [IoReg.gpior 0, IoReg.gpior 1, IoReg.gpior 2]

theorem Device.ioTable_map_fst {c : Device} (hlength : c.gpiorAddrs.length ≤ 3) :
    c.ioTable.map Prod.fst = c.describedAddrs := by
  have hzip : (c.gpiorAddrs.zip [IoReg.gpior 0, .gpior 1, .gpior 2]).map Prod.fst = c.gpiorAddrs :=
    List.map_fst_zip hlength
  simp only [Device.ioTable, Device.describedAddrs, List.map_append, apply_ite (List.map Prod.fst), hzip,
    List.map_cons, List.map_nil]

theorem Device.gpior_mem_ioTable {c : Device} {k : Fin 3} {A : IoAddr} (h : c.gpiorAddrs[k.val]? = some A) :
    (A, IoReg.gpior k) ∈ c.ioTable := by
  have hreg : ∀ j : Fin 3, [IoReg.gpior 0, .gpior 1, .gpior 2][j.val]? = some (.gpior j) := by decide
  exact List.mem_append_right _ (List.mem_of_getElem? (List.getElem?_zip_eq_some.2 ⟨h, hreg k⟩))

theorem Device.gpior_of_mem_zip {c : Device} {A : IoAddr} {R : IoReg}
    (h : (A, R) ∈ c.gpiorAddrs.zip [.gpior 0, .gpior 1, .gpior 2]) : ∃ k : Fin 3, c.gpiorAddrs[k.val]? = some A := by
  obtain ⟨k, hk⟩ := List.mem_iff_getElem?.1 h
  obtain ⟨hA, hR⟩ := List.getElem?_zip_eq_some.1 hk
  obtain ⟨hlt, -⟩ := List.getElem?_eq_some_iff.1 hR
  exact ⟨⟨k, hlt⟩, hA⟩

/-- `R` is what the table has at `A`. -/
def Device.ReadsTable (c : Device) (A : IoAddr) (R : IoReg) : Prop :=
  (A, R) ∈ c.ioTable ∨ R = .undescribed ∧ ∀ R', (A, R') ∉ c.ioTable

theorem Device.ReadsTable.ite {c : Device} {A : IoAddr} {p : Prop} {_ : Decidable p} {x y : IoReg}
    (hx : p → (A, x) ∈ c.ioTable) (hy : ¬ p → c.ReadsTable A y) : c.ReadsTable A (if p then x else y) := by
  split
  · exact .inl (hx ‹_›)
  · exact hy ‹_›

/-- `ioReg` answers from the table, and an address that it does not describe is not in it. -/
theorem Device.ioReg_readsTable (c : Device) (A : IoAddr) : c.ReadsTable A (c.ioReg A) := by
  unfold Device.ioReg
  refine .ite (fun h => ?sreg) fun hsreg => .ite (fun h => ?spl) fun hspl => .ite (fun h => ?sph) fun hsph =>
    .ite (fun h => ?rampz) fun hrampz => .ite (fun h => ?eind) fun heind => .ite (fun h => ?eearl) fun heearl =>
    .ite (fun h => ?eearh) fun heearh => .ite (fun h => ?eedr) fun heedr => .ite (fun h => ?eecr) fun heecr =>
    .ite (Device.gpior_mem_ioTable (k := 0)) fun h0 => .ite (Device.gpior_mem_ioTable (k := 1)) fun h1 =>
    .ite (Device.gpior_mem_ioTable (k := 2)) fun h2 => .inr ⟨rfl, fun R hmem => ?undescribed⟩
  case undescribed =>
    rcases List.mem_append.1 hmem with hfixed | hgpior
    · simp only [List.mem_append, List.mem_cons, Prod.mk.injEq, List.not_mem_nil, or_false] at hfixed
      grind
    · obtain ⟨k, hk⟩ := Device.gpior_of_mem_zip hgpior
      match k with
      | 0 => exact h0 hk
      | 1 => exact h1 hk
      | 2 => exact h2 hk
  all_goals simp [Device.ioTable, h]

theorem Device.mem_ioTable_of_ioReg {c : Device} {A : IoAddr} {R : IoReg} (h : c.ioReg A = R) (hR : R ≠ .undescribed) :
    (A, R) ∈ c.ioTable := by
  rcases c.ioReg_readsTable A with hmem | ⟨hundescribed, -⟩
  · exact h ▸ hmem
  · exact absurd (h.symm.trans hundescribed) hR

section
variable {c : Device} (hwf : c.wf = true)
include hwf

theorem Device.ioReg_of_mem_ioTable {A : IoAddr} {R : IoReg} (h : (A, R) ∈ c.ioTable) : c.ioReg A = R := by
  have hnodup : (c.ioTable.map Prod.fst).Nodup :=
    Device.ioTable_map_fst (Device.gpiorAddrs_length_le hwf) ▸ Device.describedAddrs_nodup hwf
  rcases c.ioReg_readsTable A with hmem | ⟨-, hnot⟩
  · exact congrArg Prod.snd (List.inj_on_of_nodup_map hnodup hmem h rfl)
  · exact absurd h (hnot R)

theorem Device.ioReg_of_not_mem {A : IoAddr} (h : A ∉ c.describedAddrs) : c.ioReg A = .undescribed := by
  rw [← Device.ioTable_map_fst (Device.gpiorAddrs_length_le hwf)] at h
  rcases c.ioReg_readsTable A with hmem | ⟨hundescribed, -⟩
  · exact absurd (List.mem_map_of_mem hmem) h
  · exact hundescribed

theorem Device.ioReg_sreg : c.ioReg 0x3F = .sreg := Device.ioReg_of_mem_ioTable hwf (by simp [Device.ioTable])
theorem Device.ioReg_spl : c.ioReg c.splAddr = .spl := Device.ioReg_of_mem_ioTable hwf (by simp [Device.ioTable])
theorem Device.ioReg_sph : c.ioReg c.sphAddr = .sph := Device.ioReg_of_mem_ioTable hwf (by simp [Device.ioTable])
theorem Device.ioReg_eearl : c.ioReg c.eearlAddr = .eearl := Device.ioReg_of_mem_ioTable hwf (by simp [Device.ioTable])
theorem Device.ioReg_eearh : c.ioReg c.eearhAddr = .eearh := Device.ioReg_of_mem_ioTable hwf (by simp [Device.ioTable])
theorem Device.ioReg_eedr : c.ioReg c.eedrAddr = .eedr := Device.ioReg_of_mem_ioTable hwf (by simp [Device.ioTable])
theorem Device.ioReg_eecr : c.ioReg c.eecrAddr = .eecr := Device.ioReg_of_mem_ioTable hwf (by simp [Device.ioTable])

theorem Device.ioReg_rampz (h : c.hasRampz = true) : c.ioReg c.rampzAddr = .rampz :=
  Device.ioReg_of_mem_ioTable hwf (by simp [Device.ioTable, h])

theorem Device.ioReg_eind (h : c.hasEind = true) : c.ioReg c.eindAddr = .eind :=
  Device.ioReg_of_mem_ioTable hwf (by simp [Device.ioTable, h])

theorem Device.ioReg_gpior {k : Fin 3} {A : IoAddr} (h : c.gpiorAddrs[k.val]? = some A) : c.ioReg A = .gpior k :=
  Device.ioReg_of_mem_ioTable hwf (Device.gpior_mem_ioTable h)
end

end Sys2Proof

namespace Sys2Proof.Machine

/-! IN (42_data_transfer.md R298). -/

theorem eecrByte_toNat : ∀ eerie m busy : Bool,
    (eecrByte eerie m busy).toNat = 8 * eerie.toNat + 4 * m.toNat + 2 * busy.toNat := by
  decide

theorem State.readEemwe_closed {s : State} (h : s.window = .closed) : s.readEemwe.1 = false := by
  rw [State.readEemwe, h]

/-- In the instruction that opens the window and in the one after it EEMWE reads 1 (60_exceptions.md R413, D36). -/
theorem State.readEemwe_young {s : State} (h : s.window = .opened 0 ∨ s.window = .opened 1) :
    s.readEemwe.1 = true := by
  rcases h with h | h <;> rw [State.readEemwe, h] <;> rfl

theorem eearLow_toNat (a : BitVec 10) : (a.extractLsb' 0 8).toNat = a.toNat % 256 := by
  rw [BitVec.extractLsb'_toNat, Nat.shiftRight_zero]

theorem eearHigh_toNat (a : BitVec 10) : (0#6 ++ a.extractLsb' 8 2 : Byte).toNat = a.toNat / 256 := by
  have ha := a.isLt
  rw [BitVec.toNat_append, BitVec.extractLsb'_toNat, Nat.shiftRight_eq_div_pow]
  simp
  omega

/-- Settles O46: Rd receives what `ioRead` answers, which each clause tells by the register at its address. -/
theorem inEffect : Obligations.InEffect := by
  intro s d A hwf
  refine ⟨_, exec_inp d A s, ?others, ?frame, MovedBy.advance_one (s.ioRead_dev A) (s.ioRead_pc A), ?values⟩
  case others =>
    rw [State.ioRead_state]
    exact OtherRegs.setReg { s with draws := _ } d _
  case frame =>
    rw [State.ioRead_state]
    rfl
  case values =>
    rw [State.reg_advance, State.reg_setReg_self, State.advance_draws, State.setReg_draws]
    refine ⟨?sreg, ?spl, ?sph, ?rampz, ?eind, ?eearl, ?eearh, ?eedr, ?eecr, ?gpior, ?undescribed⟩
    case sreg => rintro rfl; rw [State.ioRead, Device.ioReg_sreg hwf]
    case spl => rintro rfl; rw [State.ioRead, Device.ioReg_spl hwf]; exact lowByte_toNat s.sp
    case sph => rintro rfl; rw [State.ioRead, Device.ioReg_sph hwf]; exact highByte_toNat s.sp
    case rampz => rintro hhas rfl; rw [State.ioRead, Device.ioReg_rampz hwf hhas]
    case eind => rintro hhas rfl; rw [State.ioRead, Device.ioReg_eind hwf hhas]
    case eearl => rintro rfl; rw [State.ioRead, Device.ioReg_eearl hwf]; exact eearLow_toNat s.eear
    case eearh => rintro rfl; rw [State.ioRead, Device.ioReg_eearh hwf]; exact eearHigh_toNat s.eear
    case eedr => rintro rfl; rw [State.ioRead, Device.ioReg_eedr hwf]
    case eecr =>
      rintro rfl
      rw [State.ioRead, Device.ioReg_eecr hwf]
      exact ⟨_, eecrByte_toNat _ _ _, State.readEemwe_closed, State.readEemwe_young⟩
    case gpior => intro k hk; rw [State.ioRead, Device.ioReg_gpior hwf hk]
    case undescribed => intro hA; rw [State.ioRead, Device.ioReg_of_not_mem hwf hA]; exact ⟨rfl, rfl⟩

/-! OUT (R299). -/

theorem State.unlessBusy_free {s : State} (h : s.eeWrite = none) (u : State) : s.unlessBusy u = .ok u := by
  rw [State.unlessBusy, State.busy, h]; rfl

theorem State.unlessBusy_busy {s : State} (h : s.eeWrite ≠ none) (u : State) :
    s.unlessBusy u = refuse .eepromRegisterWhileBusy :=
  if_pos (Option.isSome_iff_ne_none.2 h)

/-- A write of EECR that sets none of EERE, EEWE and EEMWE (60_exceptions.md R413). -/
theorem State.writeEecr_plain {s : State} {v : Byte} (h0 : v.getLsbD 0 = false) (h1 : v.getLsbD 1 = false)
    (h2 : v.getLsbD 2 = false) : s.writeEecr v = .ok { s with eerie := v.getLsbD 3, window := .closed } := by
  have b0 : bitOf v 0 = false := h0
  have b1 : bitOf v 1 = false := h1
  have b2 : bitOf v 2 = false := h2
  simp only [State.writeEecr, State.writeEnables, b0, b1, b2]
  rfl

theorem eear_setLow_toNat (a : BitVec 10) (v : Byte) :
    (a.extractLsb' 8 2 ++ v : BitVec 10).toNat = 256 * (a.toNat / 256) + v.toNat := by
  have ha := a.isLt
  rw [BitVec.toNat_append, ← Nat.shiftLeft_add_eq_or_of_lt v.isLt, Nat.shiftLeft_eq, BitVec.extractLsb'_toNat,
    Nat.shiftRight_eq_div_pow]
  omega

theorem eear_setHigh_toNat (a : BitVec 10) (v : Byte) :
    (v.extractLsb' 0 2 ++ a.extractLsb' 0 8 : BitVec 10).toNat = 256 * (v.toNat % 4) + a.toNat % 256 := by
  rw [BitVec.toNat_append, ← Nat.shiftLeft_add_eq_or_of_lt (BitVec.isLt _), Nat.shiftLeft_eq, eearLow_toNat,
    BitVec.extractLsb'_toNat, Nat.shiftRight_zero, Nat.mul_comm]

/-- OUT completes when its write does, and then pc passes one word. -/
theorem exec_out_of_ioWrite {s u : State} {A : IoAddr} {r : Reg} (h : s.ioWrite A (s.reg r) = .ok u) :
    exec (.out A r) s = .next (u.advance 1) ∧ MovedBy s (u.advance 1) 1 := by
  have hframe : IoFrame s u := State.ioWrite_frame h
  rw [exec_out, h]
  exact ⟨rfl, MovedBy.advance_one hframe.dev hframe.pc⟩

theorem exec_out_frame {s u : State} {A : IoAddr} {r : Reg} (h : s.ioWrite A (s.reg r) = .ok u) :
    ∃ t, exec (.out A r) s = .next t ∧ t = { u with pc := t.pc } ∧ MovedBy s t 1 := by
  obtain ⟨ho, hmoved⟩ := exec_out_of_ioWrite h
  exact ⟨_, ho, rfl, hmoved⟩

theorem exec_out_whileBusy {s : State} {A : IoAddr} {r : Reg}
    (h : s.ioWrite A (s.reg r) = refuse .eepromRegisterWhileBusy) :
    exec (.out A r) s = .refused .eepromRegisterWhileBusy := by
  rw [exec_out, h]; rfl

/-- Settles O47: the write of the register at the address, which the consistency of the device tells. -/
theorem outEffect : Obligations.OutEffect := by
  intro s r A hwf
  refine ⟨?sreg, ?spl, ?sph, ?rampz, ?eind, ?gpior, ?eearl, ?eearh, ?eedr, ?busy, ?eecr, ?undescribed⟩
  case sreg =>
    rintro rfl
    exact exec_out_frame (u := { s with sreg := s.reg r }) (by rw [State.ioWrite, Device.ioReg_sreg hwf])
  case spl =>
    rintro rfl
    obtain ⟨ho, hmoved⟩ := exec_out_of_ioWrite (r := r) (u := { s with sp := wordOf (highByte s.sp) (s.reg r) })
      (by rw [State.ioWrite, Device.ioReg_spl hwf])
    exact ⟨_, ho, rfl, hmoved, (wordOf_toNat _ _).trans (by rw [highByte_toNat])⟩
  case sph =>
    rintro rfl
    obtain ⟨ho, hmoved⟩ := exec_out_of_ioWrite (r := r) (u := { s with sp := wordOf (s.reg r) (lowByte s.sp) })
      (by rw [State.ioWrite, Device.ioReg_sph hwf])
    exact ⟨_, ho, rfl, hmoved, (wordOf_toNat _ _).trans (by rw [lowByte_toNat])⟩
  case rampz =>
    rintro hhas rfl
    exact exec_out_frame (u := { s with rampz := s.reg r &&& s.dev.rampzMask })
      (by rw [State.ioWrite, Device.ioReg_rampz hwf hhas])
  case eind =>
    rintro hhas rfl
    exact exec_out_frame (u := { s with eind := s.reg r &&& 0x3F })
      (by rw [State.ioWrite, Device.ioReg_eind hwf hhas, Device.eindMask_of_hasEind hwf hhas])
  case gpior =>
    intro k hk
    exact exec_out_frame (u := { s with gpior := s.gpior.set k.val (s.reg r) })
      (by rw [State.ioWrite, Device.ioReg_gpior hwf hk])
  case eearl =>
    rintro hfree rfl
    obtain ⟨ho, hmoved⟩ := exec_out_of_ioWrite (r := r) (u := { s with eear := s.eear.extractLsb' 8 2 ++ s.reg r })
      (by rw [State.ioWrite, Device.ioReg_eearl hwf]; exact State.unlessBusy_free hfree _)
    exact ⟨_, ho, rfl, hmoved, eear_setLow_toNat s.eear (s.reg r)⟩
  case eearh =>
    rintro hfree rfl
    obtain ⟨ho, hmoved⟩ := exec_out_of_ioWrite (r := r)
      (u := { s with eear := (s.reg r).extractLsb' 0 2 ++ s.eear.extractLsb' 0 8 })
      (by rw [State.ioWrite, Device.ioReg_eearh hwf]; exact State.unlessBusy_free hfree _)
    exact ⟨_, ho, rfl, hmoved, eear_setHigh_toNat s.eear (s.reg r)⟩
  case eedr =>
    rintro hfree rfl
    exact exec_out_frame (u := { s with eedr := s.reg r })
      (by rw [State.ioWrite, Device.ioReg_eedr hwf]; exact State.unlessBusy_free hfree _)
  case busy =>
    rintro hbusy (rfl | rfl | rfl) <;> refine exec_out_whileBusy ?_
    · rw [State.ioWrite, Device.ioReg_eearl hwf]; exact State.unlessBusy_busy hbusy _
    · rw [State.ioWrite, Device.ioReg_eearh hwf]; exact State.unlessBusy_busy hbusy _
    · rw [State.ioWrite, Device.ioReg_eedr hwf]; exact State.unlessBusy_busy hbusy _
  case eecr =>
    rintro rfl h0 h1 h2
    exact exec_out_frame (u := { s with eerie := (s.reg r).getLsbD 3, window := .closed })
      (by rw [State.ioWrite, Device.ioReg_eecr hwf]; exact State.writeEecr_plain h0 h1 h2)
  case undescribed =>
    intro hA
    exact exec_out_frame (u := { s with ioLog := s.ioLog ++ [.byte A (s.reg r)] })
      (by rw [State.ioWrite, Device.ioReg_of_not_mem hwf hA])

end Sys2Proof.Machine
end

section
/-! O51 … O53: PUSH, POP and XCH (42_data_transfer.md R300 … R302). Each is one or two accesses of the data space whose
outcome is known by the range of the address (O40, O41); what is left to say is where SPL and SPH stand. -/

namespace Sys2Proof

/-! SPL and SPH are written at no other address. -/

section
variable {c : Device} {A : IoAddr}

theorem Device.eq_splAddr_of_ioReg (h : c.ioReg A = .spl) : A = c.splAddr := by
  rcases List.mem_append.1 (Device.mem_ioTable_of_ioReg h nofun) with hfixed | hgpior
  · simpa using hfixed
  · simpa using (List.of_mem_zip hgpior).2

theorem Device.eq_sphAddr_of_ioReg (h : c.ioReg A = .sph) : A = c.sphAddr := by
  rcases List.mem_append.1 (Device.mem_ioTable_of_ioReg h nofun) with hfixed | hgpior
  · simpa using hfixed
  · simpa using (List.of_mem_zip hgpior).2
end

end Sys2Proof

namespace Sys2Proof.Machine

theorem State.ioWrite_sp {s u : State} {A : IoAddr} {v : Byte} (h : s.ioWrite A v = .ok u) (hspl : A ≠ s.dev.splAddr)
    (hsph : A ≠ s.dev.sphAddr) : u.sp = s.sp := by
  unfold State.ioWrite at h
  split at h
  case h_2 hreg => exact absurd (Device.eq_splAddr_of_ioReg hreg) hspl
  case h_3 hreg => exact absurd (Device.eq_sphAddr_of_ioReg hreg) hsph
  case h_6 | h_7 | h_8 => obtain ⟨-, rfl⟩ := State.unlessBusy_eq_ok h; rfl
  case h_9 => rw [(State.writeEecr_frame h).1]
  all_goals cases h; rfl

theorem eq_dataOfIo_iff {a : Word} {A : IoAddr} : a = dataOfIo A ↔ a.toNat = A.toNat + 0x20 := by
  rw [← BitVec.toNat_inj, dataOfIo_toNat]

theorem State.onStackPointer_iff {s : State} {a : Word} :
    s.onStackPointer a = true ↔ a = dataOfIo s.dev.splAddr ∨ a = dataOfIo s.dev.sphAddr := by
  rw [State.onStackPointer, Bool.or_eq_true, decide_eq_true_eq, decide_eq_true_eq]

theorem State.not_onStackPointer {s : State} {a : Word} (hspl : a ≠ dataOfIo s.dev.splAddr)
    (hsph : a ≠ dataOfIo s.dev.sphAddr) : s.onStackPointer a = false := by
  rw [← Bool.not_eq_true, State.onStackPointer_iff, not_or]
  exact ⟨hspl, hsph⟩

/-- SPL and SPH stand in the I/O range. -/
theorem State.not_onStackPointer_of_range {s : State} {a : Word} (h : a.toNat < 0x20 ∨ 0x60 ≤ a.toNat) :
    s.onStackPointer a = false := by
  have hne (A : IoAddr) : a ≠ dataOfIo A := by
    have hA := A.isLt
    rw [Ne, eq_dataOfIo_iff]
    omega
  exact State.not_onStackPointer (hne _) (hne _)

theorem ReadStops.ge {s : State} {a : Word} {e : Stop} (h : ReadStops s a e) : 0x60 ≤ a.toNat := by
  rcases h with ⟨⟨hlo, -⟩, -⟩ | ⟨hlo, -⟩ | ⟨hlo, -⟩ <;> exact hlo

/-! PUSH (R300). -/

section
variable {s u : State} {r : Reg}

theorem exec_push_of_memWrite (hsp : s.onStackPointer s.sp = false) (h : s.memWrite s.sp (s.reg r) = .ok u) :
    exec (.push r) s = .next (State.advance { u with sp := u.sp - 1 } 1) := by
  change execPush r s = _
  rw [execPush, State.push8, hsp, h]
  rfl

theorem exec_push_of_memWrite_error {e : Stop} (hsp : s.onStackPointer s.sp = false)
    (h : s.memWrite s.sp (s.reg r) = .error e) : exec (.push r) s = finish (.error e) := by
  change execPush r s = _
  rw [execPush, State.push8, hsp, h]
  rfl

theorem exec_push_onStackPointer (hsp : s.onStackPointer s.sp = true) :
    exec (.push r) s = .refused .stackOnStackPointer := by
  change execPush r s = _
  rw [execPush, State.push8, hsp]
  rfl

theorem exec_push_sram (h : s.inSram s.sp) : exec (.push r) s =
    .next (State.advance { s with sram := Memory.put s.sram s.sp.toNat (s.reg r), sp := s.sp - 1 } 1) :=
  exec_push_of_memWrite (s.onStackPointer_sram _ h) (State.memWrite_sram h)
end

/-- Settles O51. -/
theorem pushEffect : Obligations.PushEffect := by
  intro s r
  refine ⟨fun hram => ?sram, fun hlow => ?register, fun hon => ?onStackPointer,
    fun hlo hhi hspl hsph u hu => ?io, fun hlo hend => ?beyond, fun hspl hsph e h => ?stops⟩
  case sram =>
    exact ⟨_, exec_push_sram hram, Memory.get?_put_self .., OtherSram.of_put rfl, sub_one_toNat_word s.sp, rfl,
      MovedBy.advance_one rfl rfl⟩
  case register =>
    exact ⟨_, exec_push_of_memWrite (State.not_onStackPointer_of_range (.inl hlow)) (State.memWrite_low hlow _),
      s.reg_setReg_self _ _, OtherRegs.setReg s _ _, sub_one_toNat_word s.sp, rfl, MovedBy.advance_one rfl rfl⟩
  case onStackPointer =>
    rw [← eq_dataOfIo_iff, ← eq_dataOfIo_iff] at hon
    exact exec_push_onStackPointer (State.onStackPointer_iff.2 hon)
  case io =>
    rw [Ne, ← eq_dataOfIo_iff] at hspl hsph
    have hframe : IoFrame s u := State.ioWrite_frame hu
    have hback : dataOfIo ((s.sp - 0x20).setWidth 6) = s.sp := by
      rw [eq_comm, eq_dataOfIo_iff, BitVec.toNat_setWidth]
      bv_omega
    have hsp : u.sp = s.sp := State.ioWrite_sp hu (fun e => hspl (e ▸ hback.symm)) fun e => hsph (e ▸ hback.symm)
    refine ⟨_, exec_push_of_memWrite (State.not_onStackPointer hspl hsph) ((State.memWrite_io hlo hhi _).trans hu),
      ?_, rfl, MovedBy.advance_one hframe.dev hframe.pc⟩
    rw [State.advance_sp, hsp, sub_one_toNat_word]
  case beyond =>
    have hstop : WriteStops s s.sp (s.reg r) _ := .inr (.inl ⟨hlo, hend, rfl⟩)
    exact exec_push_of_memWrite_error (State.not_onStackPointer_of_range (.inr hlo)) hstop.memWrite
  case stops =>
    rw [Ne, ← eq_dataOfIo_iff] at hspl hsph
    exact exec_push_of_memWrite_error (State.not_onStackPointer hspl hsph) h.memWrite

/-! POP (R301). -/

section
variable {s u : State} {d : Reg} {v : Byte}

theorem exec_pop_of_reads (hsp : s.onStackPointer (s.sp + 1) = false)
    (h : Reads { s with sp := s.sp + 1 } (s.sp + 1) v u) : exec (.pop d) s = .next ((u.setReg d v).advance 1) := by
  change execPop d s = _
  rw [execPop, State.pop8, hsp, if_neg nofun, h.memRead]
  rfl

theorem exec_pop_sram (h : s.inSram (s.sp + 1)) (hv : Memory.get? s.sram (s.sp + 1).toNat = some v) :
    exec (.pop d) s = .next ((State.setReg { s with sp := s.sp + 1 } d v).advance 1) :=
  exec_pop_of_reads (s.onStackPointer_sram _ h) (.inr (.inr ⟨h, hv, rfl⟩))

theorem exec_pop_of_readStops {e : Stop} (h : ReadStops s (s.sp + 1) e) : exec (.pop d) s = finish (.error e) := by
  have hmoved : ReadStops { s with sp := s.sp + 1 } (s.sp + 1) e := h
  change execPop d s = _
  rw [execPop, State.pop8, State.not_onStackPointer_of_range (.inr h.ge), if_neg nofun, hmoved.memRead]
  rfl

theorem exec_pop_onStackPointer (hsp : s.onStackPointer (s.sp + 1) = true) :
    exec (.pop d) s = .refused .stackOnStackPointer := by
  change execPop d s = _
  rw [execPop, State.pop8, hsp]
  rfl
end

/-- Settles O52; what a push in SRAM leaves is what the pop then reads. -/
theorem popEffect : Obligations.PopEffect := by
  intro s d
  rw [ofNat_add_eq_dataOfIo, ofNat_add_eq_dataOfIo]
  refine ⟨fun hspl hsph v u h => ?reads, fun hon => exec_pop_onStackPointer (State.onStackPointer_iff.2 hon),
    fun e h => exec_pop_of_readStops h, fun t r hram ht => ?afterPush⟩
  case reads =>
    have ho := exec_pop_of_reads (d := d) (State.not_onStackPointer hspl hsph) h
    obtain ⟨n, rfl⟩ := h.exists_draws
    exact ⟨_, ho, State.reg_setReg_self _ d v, OtherRegs.setReg { s with sp := s.sp + 1, draws := n } d v,
      add_one_toNat_word s.sp, rfl, MovedBy.advance_one rfl rfl⟩
  case afterPush =>
    rw [exec_push_sram hram, Host.Outcome.next.injEq] at ht
    have hback : t.sp + 1 = s.sp := by rw [← ht]; exact BitVec.sub_add_cancel ..
    have hram' : t.inSram (t.sp + 1) := by rw [hback, ← ht]; exact hram
    have hstored : Memory.get? t.sram (t.sp + 1).toNat = some (s.reg r) := by
      rw [hback, ← ht]; exact Memory.get?_put_self ..
    have hsame : OtherRegs s t [] := fun x _ => by rw [← ht]; rfl
    exact ⟨_, exec_pop_sram hram' hstored, State.reg_setReg_self _ d _,
      hsame.trans (OtherRegs.setReg { t with sp := t.sp + 1 } d _), hback⟩

/-! XCH (R302). -/

section
variable {s u w : State} {d : Reg} {v : Byte} {e : Stop}

theorem exec_xch_of_access (hread : s.memRead (s.ptr .z) = .ok (v, u))
    (hwrite : u.memWrite (s.ptr .z) (s.reg d) = .ok w) : exec (.xch d) s = .next ((w.setReg d v).advance 1) := by
  change execXch d s = _
  rw [execXch, hread, res_bind_ok]
  dsimp only
  rw [hwrite]
  rfl

theorem exec_xch_of_memRead_error (hread : s.memRead (s.ptr .z) = .error e) :
    exec (.xch d) s = finish (.error e) := by
  change execXch d s = _
  rw [execXch, hread]
  rfl

theorem exec_xch_of_memWrite_error (hread : s.memRead (s.ptr .z) = .ok (v, u))
    (hwrite : u.memWrite (s.ptr .z) (s.reg d) = .error e) : exec (.xch d) s = finish (.error e) := by
  change execXch d s = _
  rw [execXch, hread, res_bind_ok]
  dsimp only
  rw [hwrite]
  rfl
end

/-- Two registers change places, which may be one. -/
theorem State.exchange_reg (s : State) (d i : Reg) :
    let t := (s.setReg i (s.reg d)).setReg d (s.reg i)
    t.reg d = s.reg i ∧ t.reg i = s.reg d ∧ OtherRegs s t [d, i] := by
  refine ⟨State.reg_setReg_self _ d _, ?_, fun x hx => ?_⟩
  · rw [State.reg_setReg]
    split
    · rw [‹i = d›]
    · exact State.reg_setReg_self s i _
  · simp only [List.mem_cons, List.not_mem_nil, or_false, not_or] at hx
    rw [State.reg_setReg_of_ne _ _ hx.1, State.reg_setReg_of_ne _ _ hx.2]

/-- Settles O53. -/
theorem exchangeEffect : Obligations.ExchangeEffect := by
  intro s d
  refine ⟨fun v hram hv => ?sram, fun hlow => ?register, fun hlo hhi v u w hu hw => ?io, fun hlo hhi e he => ?ioStops,
    fun e h => exec_xch_of_memRead_error h.memRead⟩
  case sram =>
    exact ⟨_, exec_xch_of_access (State.memRead_sram hram hv) (State.memWrite_sram hram), State.reg_setReg_self _ d v,
      Memory.get?_put_self .., OtherSram.of_put rfl, OtherRegs.setReg s d v, rfl, MovedBy.advance_one rfl rfl⟩
  case register =>
    have hread : Reads s (s.ptr .z) _ s := .inl ⟨hlow, rfl, rfl⟩
    obtain ⟨hrd, hri, hothers⟩ := s.exchange_reg d ((s.ptr .z).setWidth 5)
    exact ⟨_, exec_xch_of_access hread.memRead (State.memWrite_low hlow _), hrd, hri, hothers, rfl,
      MovedBy.advance_one rfl rfl⟩
  case io =>
    have hread : Reads s (s.ptr .z) v u := .inr (.inl ⟨hlo, hhi, hu⟩)
    have hwrite := (State.memWrite_io (s := u) hlo hhi _).trans hw
    have hframe : IoFrame u w := State.ioWrite_frame hw
    have ho := exec_xch_of_access (d := d) hread.memRead hwrite
    obtain ⟨n, rfl⟩ := hread.exists_draws
    have hsame : OtherRegs s w [] := fun x _ => State.reg_congr hframe.regs x
    exact ⟨_, ho, State.reg_setReg_self w d v, hsame.trans (OtherRegs.setReg w d v), rfl,
      MovedBy.advance_one hframe.dev hframe.pc⟩
  case ioStops =>
    exact exec_xch_of_memWrite_error (State.memRead_io hlo hhi) ((State.memWrite_io hlo hhi _).trans he)

end Sys2Proof.Machine
end

section
/-! O28, O30, O31, O50: the bit instructions of 43_bit_and_bit_test.md. A shift to the right is told by the bit that
enters at the top, a flag instruction by the bit of SREG and its value, and SBI and CBI by what `ioWriteBit` does with
the register at their address. -/

namespace Sys2Proof.Machine

/-! LSR, ROR and ASR (R341, R343, R345, R346). -/

/-- C's new value is given to the flag function as a word: bit 0 of Rd alone. -/
theorem bit0_setWidth : ∀ v : Byte, (BitVec.ofBool (v.getLsbD 0)).setWidth 16 = v.setWidth 16 &&& (1 : Word) := by
  decide

theorem byte_bit0 (v : Byte) : v.getLsbD 0 = decide (v.toNat % 2 = 1) := by
  rw [← BitVec.testBit_toNat, Nat.testBit_zero]

theorem lsr_toNat (v : Byte) : (v >>> 1).toNat = v.toNat / 2 + 128 * false.toNat := by
  rw [BitVec.toNat_ushiftRight, Nat.shiftRight_eq_div_pow]; rfl

theorem ror_toNat : ∀ (v : Byte) (c : Bool),
    ((BitVec.ofBool c).setWidth 8 <<< 7 ||| v >>> 1 : Byte).toNat = v.toNat / 2 + 128 * c.toNat := by
  decide +kernel

theorem asr_toNat : ∀ v : Byte,
    ((v &&& 0x80) ||| v >>> 1 : Byte).toNat = v.toNat / 2 + 128 * (decide (v.toInt < 0)).toNat := by
  decide +kernel

/-- N is the bit that entered at the top, and in S = N xor V it cancels out. -/
theorem flagsShift_eq {v res : Byte} {top : Bool} (hres : res.toNat = v.toNat / 2 + 128 * top.toNat) (f : Flags) :
    flagsShift res (v.getLsbD 0) f =
      { f with
        c := decide (v.toNat % 2 = 1), n := top, z := decide (v.toNat < 2) && !top
        v := top ^^ decide (v.toNat % 2 = 1), s := decide (v.toNat % 2 = 1) } := by
  have hv := v.isLt
  have hn : res.getLsbD 7 = top := by rw [byte_bit7, hres]; cases top <;> grind
  have hz : (res == 0) = (decide (v.toNat < 2) && !top) := by
    rw [beq_eq_decide_toNat, hres]; cases top <;> simp
  simp only [flagsShift, hn, hz, byte_bit0, ← Bool.xor_assoc, Bool.xor_self, Bool.false_xor]

/-- A shift to the right by one, `top` entering as bit 7. -/
theorem State.shift_effect {s : State} {d : Reg} {res : Byte} {o : StepOutcome State}
    (ho : o = .next (s.alu d res (s.flagsShift res ((s.reg d).getLsbD 0)))) {top : Bool}
    (hres : res.toNat = (s.reg d).toNat / 2 + 128 * top.toNat) {n : Int} (hn : (res.toNat : Int) = n % 256) {f : Flags}
    (hf : { s.flags with
      c := decide ((s.reg d).toNat % 2 = 1), n := top, z := decide ((s.reg d).toNat < 2) && !top
      v := top ^^ decide ((s.reg d).toNat % 2 = 1), s := decide ((s.reg d).toNat % 2 = 1) } = f) :
    ∃ t, o = .next t ∧ WroteByte s t d n ∧
      FlagsBy s t .shift ⟨(s.reg d).setWidth 16 &&& 1, 0, (t.reg d).setWidth 16⟩ (· = f) := by
  rw [State.flagsShift, bit0_setWidth] at ho
  exact ⟨_, ho, s.alu_wroteByte d _ _ hn, s.alu_flagsBy d ((flagsShift_eq hres s.flags).trans hf)⟩

/-- Settles O28: 0, C or the sign enters at the top. -/
theorem shiftRightEffect : Obligations.ShiftRightEffect := by
  intro s d
  have hlsr := lsr_toNat (s.reg d)
  have hror := ror_toNat (s.reg d) s.flags.c
  have hasr := asr_toNat (s.reg d)
  have hv := (s.reg d).isLt
  have hc := s.flags.c.toNat_le
  refine ⟨State.shift_effect rfl hlsr ?lsrValue ?lsrFlags, State.shift_effect rfl hror ?rorValue rfl,
    State.shift_effect rfl hasr ?asrValue ?asrFlags⟩
  case lsrValue => rw [hlsr, Bool.toNat_false]; omega
  case lsrFlags => simp only [Bool.not_false, Bool.and_true, Bool.false_xor]
  case rorValue => rw [hror]; omega
  case asrValue =>
    rw [hasr]
    have hsign := byte_toInt (s.reg d)
    split at hsign
    · rw [decide_eq_true (by omega), Bool.toNat_true]; omega
    · rw [decide_eq_false (by omega), Bool.toNat_false]; omega
  case asrFlags =>
    have hsmall : (decide ((s.reg d).toNat < 2) && !decide ((s.reg d).toInt < 0)) = decide ((s.reg d).toNat < 2) := by
      have hsign := byte_toInt (s.reg d)
      grind
    rw [hsmall]

/-! BSET, BCLR and their named forms (R348, R349, R354 … R369). -/

/-- Bit `b` of SREG was written with `x` and pc passed one word; setting I delays interrupts (D11). -/
def WritesFlag (s : State) (o : StepOutcome State) (b : BitVec 3) (x : Bool) : Prop :=
  ∃ t, o = .next t ∧
    (∀ k, k < 8 → t.sreg.getLsbD k = if k = b.toNat then x else s.sreg.getLsbD k) ∧
    t.inhibit = (s.inhibit || (x && decide (b = 7))) ∧
    t = { s with sreg := t.sreg, pc := t.pc, inhibit := t.inhibit } ∧ MovedBy s t 1

theorem exec_bset_writesFlag (s : State) (b : BitVec 3) : WritesFlag s (exec (.bset b) s) b true :=
  ⟨_, rfl, withBit_getLsbD s.sreg b true, rfl, rfl, MovedBy.advance_one rfl rfl⟩

theorem exec_bclr_writesFlag (s : State) (b : BitVec 3) : WritesFlag s (exec (.bclr b) s) b false :=
  ⟨_, rfl, withBit_getLsbD s.sreg b false, (Bool.or_false _).symm, rfl, MovedBy.advance_one rfl rfl⟩

/-- Settles O30: the sixteen named forms are BSET and BCLR of their bit, as O32 found them. -/
theorem flagBitEffect : Obligations.FlagBitEffect := by
  intro s b f hf
  change WritesFlag s (exec f.1 s) f.2.1 f.2.2
  obtain ⟨hsec, hsez, hsen, hsev, hses, hseh, hsetT, hsei⟩ := exec_setFlag s
  obtain ⟨hclc, hclz, hcln, hclv, hcls, hclh, hclt, hcli⟩ := exec_clearFlag s
  revert f
  simp only [List.forall_mem_cons, hsec, hsez, hsen, hsev, hses, hseh, hsetT, hsei, hclc, hclz, hcln, hclv, hcls, hclh,
    hclt, hcli, exec_bset_writesFlag, exec_bclr_writesFlag, List.not_mem_nil, false_imp_iff, implies_true, and_self]

/-! BST and BLD (R352, R353). -/

/-- Settles O31. -/
theorem bitCopyEffect : Obligations.BitCopyEffect := by
  intro s d b core w2
  obtain ⟨hbld, hbst, -, -⟩ := decode_encRB core w2 d b
  refine ⟨⟨_, rfl, State.flags_setFlags s _, rfl, MovedBy.advance_one rfl rfl⟩, ?bld, hbst, hbld⟩
  case bld =>
    obtain ⟨t, ho, hval, hframe⟩ := State.writeReg_effect (s := s) (o := exec (.bld d b) s) rfl
    exact ⟨t, ho, hval ▸ withBit_getLsbD (s.reg d) b s.flags.t, hframe⟩

end Sys2Proof.Machine

namespace Sys2Proof

/-- A described address is one of the table, which holds only described registers. -/
theorem Device.ioReg_ne_undescribed {c : Device} (hwf : c.wf = true) {A : IoAddr} (h : A ∈ c.describedAddrs) :
    c.ioReg A ≠ .undescribed := by
  rw [← Device.ioTable_map_fst (Device.gpiorAddrs_length_le hwf)] at h
  obtain ⟨⟨A, R⟩, hmem, rfl⟩ := List.mem_map.1 h
  rw [Device.ioReg_of_mem_ioTable hwf hmem]
  rintro rfl
  rcases List.mem_append.1 hmem with hfixed | hgpior
  · simp at hfixed
  · simpa using (List.of_mem_zip hgpior).2

theorem Device.eq_eecrAddr_of_ioReg {c : Device} {A : IoAddr} (h : c.ioReg A = .eecr) : A = c.eecrAddr := by
  rcases List.mem_append.1 (Device.mem_ioTable_of_ioReg h nofun) with hfixed | hgpior
  · simpa using hfixed
  · simpa using (List.of_mem_zip hgpior).2

end Sys2Proof

namespace Sys2Proof.Machine

/-! SBI and CBI (R350, R351): the write of one bit by the register at the address. -/

section
variable {s u : State} {A : IoAddr} {b : BitVec 3} {x : Bool}

theorem State.ioWriteBit_gpior {k : Fin 3} (h : s.dev.ioReg A = .gpior k) :
    s.ioWriteBit A b x = .ok { s with gpior := s.gpior.set k.val (withBit s.gpior[k.val] b x) } := by
  simp only [State.ioWriteBit, State.ioWrite, State.ioRead, h]

theorem State.ioWriteBit_undescribed (h : s.dev.ioReg A = .undescribed) :
    s.ioWriteBit A b x = .ok { s with ioLog := s.ioLog ++ [.bit A b x] } := by
  rw [State.ioWriteBit, h]

theorem State.ioWriteBit_eecr (h : s.dev.ioReg A = .eecr) : s.ioWriteBit A b x = s.writeEecrBit b x := by
  rw [State.ioWriteBit, h]

/-- At a register of plain storage the bit is written with the rest of its byte. -/
theorem State.ioWriteBit_plain (heecr : s.dev.ioReg A ≠ .eecr) (hundescribed : s.dev.ioReg A ≠ .undescribed) :
    s.ioWriteBit A b x = s.ioWrite A (withBit (s.ioRead A).1 b x) := by
  rw [State.ioWriteBit]
  split
  · exact absurd ‹_› heecr
  · exact absurd ‹_› hundescribed
  · rfl

/-- Bits 7 to 4 of EECR hold nothing, and a 0 written to EEWE or EERE does nothing (60_exceptions.md R413). -/
theorem State.writeEecrBit_idle (h : 4 ≤ b.toNat ∨ (b.toNat ≤ 1 ∧ x = false)) : s.writeEecrBit b x = .ok s := by
  have h3 : b ≠ 3 := by rintro rfl; simp at h
  have h2 : b ≠ 2 := by rintro rfl; simp at h
  rw [State.writeEecrBit, if_neg h3, if_neg h2]
  rcases h with hhigh | ⟨-, rfl⟩
  · rw [if_neg (by rintro rfl; simp at hhigh), if_neg (by rintro rfl; simp at hhigh)]
  · simp

/-- The write of one bit, and then pc passes one word. -/
def IoBitStep (s : State) (o : StepOutcome State) (A : IoAddr) (b : BitVec 3) (x : Bool) : Prop :=
  o = finish (s.ioWriteBit A b x >>= fun u => .ok (u.advance 1))

theorem exec_ioBitStep (s : State) (A : BitVec 5) (b : BitVec 3) :
    IoBitStep s (exec (.sbi A b) s) (A.setWidth 6) b true ∧ IoBitStep s (exec (.cbi A b) s) (A.setWidth 6) b false :=
  ⟨rfl, rfl⟩

theorem IoBitStep.completes {o : StepOutcome State} (ho : IoBitStep s o A b x) (h : s.ioWriteBit A b x = .ok u) :
    ∃ t, o = .next t ∧ t = { u with pc := t.pc } ∧ MovedBy s t 1 := by
  have hframe : IoFrame s u := State.ioWriteBit_frame h
  rw [IoBitStep, h] at ho
  exact ⟨_, ho, rfl, MovedBy.advance_one hframe.dev hframe.pc⟩

theorem IoBitStep.stops {o : StepOutcome State} {e : Stop} (ho : IoBitStep s o A b x)
    (h : s.ioWriteBit A b x = .error e) : o = finish (.error e) := by
  rw [IoBitStep, h] at ho
  exact ho

end

/-- Settles O50: the register at the address, which the consistency of the device tells, says what the write of the one
bit does. -/
theorem ioBitEffect : Obligations.IoBitEffect := by
  intro s A b hwf f hf
  have hstep : IoBitStep s (exec f.1 s) (A.setWidth 6) b f.2 := by
    obtain ⟨hsbi, hcbi⟩ := exec_ioBitStep s A b
    revert f
    simp only [List.forall_mem_cons, hsbi, hcbi, List.not_mem_nil, false_imp_iff, implies_true, and_self]
  refine ⟨fun k hk => ?gpior, fun hA => ?undescribed, fun hA => ?eecr, fun hA hne => ?plain⟩
  case gpior =>
    obtain ⟨t, ho, ht, hmoved⟩ := hstep.completes (State.ioWriteBit_gpior (Device.ioReg_gpior hwf hk))
    have hval : t.gpior[k.val] = withBit s.gpior[k.val] b f.2 := by rw [ht]; exact Vector.getElem_set_self _
    exact ⟨t, ho, hval ▸ withBit_getLsbD s.gpior[k.val] b f.2, hval ▸ ht, hmoved⟩
  case undescribed => exact hstep.completes (State.ioWriteBit_undescribed (Device.ioReg_of_not_mem hwf hA))
  case eecr =>
    have hwrite : s.ioWriteBit (A.setWidth 6) b f.2 = s.writeEecrBit b f.2 :=
      State.ioWriteBit_eecr (hA ▸ Device.ioReg_eecr hwf)
    refine ⟨fun hb => ?eerie, fun hb hclear => ?eemwe, fun h => ?idle⟩
    case eerie => exact hstep.completes (hwrite.trans (by rw [hb]; rfl))
    case eemwe => exact hstep.completes (hwrite.trans (by rw [hb, hclear]; rfl))
    case idle => exact hstep.completes (hwrite.trans (State.writeEecrBit_idle h))
  case plain =>
    have hwrite := State.ioWriteBit_plain (b := b) (x := f.2) (fun h => hne (Device.eq_eecrAddr_of_ioReg h))
      (Device.ioReg_ne_undescribed hwf hA)
    exact ⟨fun u hu => hstep.completes (hwrite.trans hu), fun e he => hstep.stops (hwrite.trans he)⟩

end Sys2Proof.Machine
end

section
/-! O55: the control instructions of 44_mcu_control.md. All but SLEEP and the BREAK that ends the run do `pc <- pc + 1`
and nothing else; those two are told by the steps after them, which run no instruction. -/

namespace Sys2Proof.Machine

/-! Advance by one word and nothing else (R392, R394, D13). -/

theorem State.advance_effect {s : State} {o : StepOutcome State} (ho : o = .next (s.advance 1)) :
    ∃ t, o = .next t ∧ OnlyPc s t ∧ MovedBy s t 1 :=
  ⟨_, ho, rfl, MovedBy.advance_one rfl rfl⟩

theorem exec_nop (s : State) : exec .nop s = .next (s.advance 1) := rfl

theorem exec_wdr (s : State) : exec .wdr s = .next (s.advance 1) := rfl

theorem exec_sleep (s : State) : exec .sleep s = .next { s.advance 1 with sleeping := true } := rfl

/-! BREAK by `BREAK_MODE` (R391). -/

section
variable {s : State} (hbreak : s.dev.hasBreak = true)
include hbreak

theorem exec_brk_nop (hmode : s.dev.breakMode = .nop) : exec .brk s = .next (s.advance 1) := by
  change execBrk s = _
  rw [execBrk, if_pos hbreak, hmode]

theorem exec_brk_stop (hmode : s.dev.breakMode = .stop) : exec .brk s = .next { s with halted := true } := by
  change execBrk s = _
  rw [execBrk, if_pos hbreak, hmode]

end

/-! The steps that run no instruction (60_exceptions.md R405, 70_reset_and_hazards.md R467). -/

/-- A halted processor takes no part in a step, whatever is pending. -/
theorem step_of_halted {s : State} (h : s.halted = true) : step s = .next s.agents := by
  rw [step, processorStep, if_pos (s.agents_halted.trans h)]

@[simp] theorem State.agents_sleeping (s : State) : s.agents.sleeping = s.sleeping := by
  rw [State.agents_state]

/-- Asleep with no interrupt to take, the processor only takes back the delay. -/
theorem step_of_asleep {s : State} (hsleep : s.sleeping = true) (hsampled : s.agents.sampled = none)
    (hhalt : s.halted = false) : step s = .next { s.agents with inhibit := false } := by
  simp only [step, processorStep, State.agents_halted, hhalt, hsampled, State.agents_sleeping, hsleep, Bool.false_eq_true,
    if_false, if_true]

/-- Such a step leaves the processor where it sleeps. -/
theorem step_of_asleep_keeps {t : State} (hsleep : t.sleeping = true) (hsampled : t.agents.sampled = none)
    (hhalt : t.halted = false) :
    ∃ u, step t = .next u ∧ u.pc = t.pc ∧ u.regs = t.regs ∧ u.sreg = t.sreg ∧ u.sram = t.sram ∧ u.sp = t.sp ∧
      u.sleeping = true := by
  refine ⟨_, step_of_asleep hsleep hsampled hhalt, ?_⟩
  rw [State.agents_state]
  exact ⟨rfl, rfl, rfl, rfl, rfl, hsleep⟩

/-- Settles O55: what is claimed of the step after SLEEP, and of the one after the BREAK that ends the run, holds of every
step asleep and of every step halted. -/
theorem controlEffect : Obligations.ControlEffect := by
  intro s
  refine ⟨State.advance_effect (exec_nop s), State.advance_effect (exec_wdr s),
    ⟨_, exec_sleep s, rfl, ?moved, ?waits⟩, fun hbreak hmode => ?goesOn, fun hbreak hmode => ?ends⟩
  case moved => exact MovedBy.advance_one (u := { s with sleeping := true }) rfl rfl
  case waits => exact step_of_asleep_keeps rfl
  case goesOn => exact State.advance_effect (exec_brk_nop hbreak hmode)
  case ends => exact ⟨exec_brk_stop hbreak hmode, step_of_halted rfl⟩

end Sys2Proof.Machine
end

section
/-! O5, O7, O8, O11: the three things an awake or sleeping processor does at a step (60_exceptions.md R405). The fetch
answers what the words at pc decode to, since after the first word of a one-word instruction no other is looked at; and
the source sampled is the first pending one, or none when I is clear or the delay pending. -/

namespace Sys2Proof

/-- The word after a one-word instruction decides nothing: the encoding of what was decoded is the first word alone
(O2), and it decodes to the same instruction (O1). -/
theorem decode_oneWord {c : Device} {w w2 : Word} {i : Instr} (hone : isTwoWord w = false)
    (hi : decode c.core w w2 = some i) (hadm : c.admits i = true) : decode c.core w 0 = some i := by
  obtain ⟨hwf, hbase, hback⟩ := decode_encodesBack _ hi
  obtain ⟨v, rest, henc, hdec⟩ := decodesToBase_of_admits hwf hadm
  rw [hone] at hback
  obtain ⟨rfl, rfl⟩ := List.cons.inj (henc.symm.trans hback)
  rwa [hbase] at hdec

theorem decode_oneWord_congr {c : Device} {w w2 : Word} {i : Instr} (hone : isTwoWord w = false)
    (hi : decode c.core w w2 = some i) (hadm : c.admits i = true) (w2' : Word) : decode c.core w w2' = some i := by
  have hmap := decode_map_admits c c.core w w2 w2'
  rw [hi, Option.map_some, hadm] at hmap
  obtain ⟨j, hj, hjadm⟩ := Option.map_eq_some_iff.1 hmap.symm
  rw [hj, ← decode_oneWord hone hj hjadm, decode_oneWord hone hi hadm]

end Sys2Proof

namespace Sys2Proof.Machine

/-! The step that runs an instruction. -/

theorem State.fetch_of_decode {s : State} {w w2 : Word} {i : Instr} (hw : s.progWord? s.pc.toNat = some w)
    (hsecond : skipLen w = 2 → s.progWord? s.nextWordAddr = some w2) (hi : decode s.dev.core w w2 = some i)
    (hadm : s.dev.admits i = true) : s.fetch = .ok i := by
  unfold State.fetch
  rw [hw]
  cases htwo : isTwoWord w with
  | false =>
    dsimp only
    rw [decode_oneWord_congr htwo hi hadm]
    simp [hadm, htwo]
  | true =>
    rw [hsecond (if_pos htwo)]
    dsimp only [Option.getD_some]
    rw [hi]
    simp [hadm]

theorem step_of_fetch {s : State} {i : Instr} (hsampled : s.agents.sampled = none)
    (hsleep : s.agents.sleeping = false) (hhalt : s.halted = false) (h : s.agents.fetch = .ok i) :
    step s = exec i s.agents.beginInstr := by
  simp only [step, processorStep, State.agents_halted, hhalt, hsampled, hsleep, h, Bool.false_eq_true, if_false]

/-- With no write in progress and no source to raise, the other agents do not move (60_exceptions.md R402, R417). -/
theorem State.agents_idle {s : State} (hfree : s.eeWrite = none) (henv : s.dev.envIrq = []) : s.agents = s := by
  have hprogrammer : s.programmerMove = s := by rw [State.programmerMove, hfree]
  rw [State.agents, hprogrammer, State.environmentMove, if_pos henv]

/-- Settles O5. -/
theorem stepRunsDecodedInstruction : Obligations.StepRunsDecodedInstruction :=
  ⟨fun _ _ _ _ hsampled hsleep hhalt hw hsecond hi hadm =>
    step_of_fetch hsampled hsleep hhalt (State.fetch_of_decode hw hsecond hi hadm), fun _ => State.agents_idle⟩

/-! Sampling (R403, R405). -/

section
variable {s : State}

theorem State.lowestPending_eq_some {n : Nat} (hlo : 2 ≤ n) (hhi : n ≤ s.dev.nVectors) (hn : s.pending n = true)
    (hlower : ∀ m, 2 ≤ m → m < n → s.pending m = false) : s.lowestPending = some n := by
  rw [State.lowestPending, List.find?_range'_eq_some]
  refine ⟨hn, List.mem_range'_1.2 ⟨hlo, by omega⟩, fun m hm hlt => ?_⟩
  rw [hlower m hm hlt]
  rfl

theorem State.lowestPending_eq_none (h : ∀ n, 2 ≤ n → n ≤ s.dev.nVectors → s.pending n = false) :
    s.lowestPending = none := by
  rw [State.lowestPending, List.find?_range'_eq_none]
  intro n hlo hhi
  rw [h n hlo (by omega)]
  rfl

theorem State.sampled_of_enabled (hi : bitOf s.sreg bitI = true) (hdelay : s.inhibit = false) :
    s.sampled = s.lowestPending := by
  rw [State.sampled, hi, hdelay]
  rfl

theorem State.sampled_of_masked (h : bitOf s.sreg bitI = false) : s.sampled = none := by
  rw [State.sampled, h]
  rfl

theorem State.sampled_of_delayed (h : s.inhibit = true) : s.sampled = none := by
  rw [State.sampled, h, Bool.not_true, Bool.and_false]
  rfl

theorem State.sampled_of_nonePending (h : ∀ n, 2 ≤ n → n ≤ s.dev.nVectors → s.pending n = false) :
    s.sampled = none := by
  rw [State.sampled, State.lowestPending_eq_none h, ite_self]

theorem step_of_sampled {n : Nat} (hhalt : s.halted = false) (h : s.agents.sampled = some n) :
    step s = finish ({ s.agents with inhibit := false }.interruptEntry n) := by
  simp [step, processorStep, hhalt, h]

end

/-- Settles O7. -/
theorem lowestPendingSourceIsEntered : Obligations.LowestPendingSourceIsEntered :=
  fun _ _ hhalt hi hdelay hlo hhi hn hlower => step_of_sampled hhalt
    ((State.sampled_of_enabled hi hdelay).trans (State.lowestPending_eq_some hlo hhi hn hlower))

/-- Settles O8. -/
theorem maskedOrDelayedTakesNoInterrupt : Obligations.MaskedOrDelayedTakesNoInterrupt := by
  intro s h
  have hsampled : s.agents.sampled = none := by
    rcases h with hmasked | hdelayed | hnone
    · exact State.sampled_of_masked hmasked
    · exact State.sampled_of_delayed hdelayed
    · exact State.sampled_of_nonePending hnone
  exact ⟨hsampled, fun hsleep => step_of_asleep (s.agents_sleeping.symm.trans hsleep) hsampled⟩

/-! What sets I delays the sampling; what clears it masks it. -/

@[simp] theorem State.agents_sreg (s : State) : s.agents.sreg = s.sreg := by
  rw [State.agents_state]

@[simp] theorem State.agents_inhibit (s : State) : s.agents.inhibit = s.inhibit := by
  rw [State.agents_state]

/-- The other agents leave a delay pending, and I clear, whatever they raise. -/
theorem State.agents_sampled_of_delayed {s : State} (h : s.inhibit = true) : s.agents.sampled = none :=
  State.sampled_of_delayed (s.agents_inhibit.trans h)

theorem State.agents_sampled_of_masked {s : State} (h : s.flags.i = false) : s.agents.sampled = none := by
  have hmasked : bitOf s.sreg bitI = false := h
  exact State.sampled_of_masked (by rwa [State.agents_sreg])

theorem exec_reti_eq_next {s t : State} (h : exec .reti s = .next t) : t.flags.i = true ∧ t.inhibit = true := by
  obtain ⟨a, u, -, rfl⟩ := State.returnFromInterrupt_eq_ok (finish_eq_next.1 h)
  exact ⟨congrArg Flags.i (State.flags_setSregBit_i _ true), rfl⟩

theorem exec_bset_i_eq_next {s t : State} (h : exec (.bset 7) s = .next t) : t.flags.i = true ∧ t.inhibit = true := by
  rw [exec_bset_i] at h
  cases h
  exact ⟨congrArg Flags.i (State.flags_setSregBit_i _ true), rfl⟩

theorem exec_bclr_i_eq_next {s t : State} (h : exec (.bclr 7) s = .next t) : t.flags.i = false := by
  cases h
  exact congrArg Flags.i (State.flags_setSregBit_i _ false)

theorem exec_out_sreg (s : State) (r : Reg) :
    exec (.out 0x3F r) s = .next (State.advance { s with sreg := s.reg r } 1) := by
  have hwrite : s.ioWrite 0x3F (s.reg r) = .ok { s with sreg := s.reg r } := by
    rw [State.ioWrite, show s.dev.ioReg 0x3F = .sreg from if_pos rfl]
  exact (exec_out_of_ioWrite hwrite).1

/-- Settles O11: SEI and CLI are BSET and BCLR of bit 7, as O32 found them. -/
theorem setIDelaysOneInstruction : Obligations.SetIDelaysOneInstruction := by
  refine ⟨fun s t h => ?sets, fun s t h => ?clears, fun s t r h => ?out⟩
  case sets =>
    obtain ⟨-, -, -, -, -, -, -, hsei⟩ := exec_setFlag s
    rw [hsei] at h
    have heffect : t.flags.i = true ∧ t.inhibit = true := by
      rcases h with h | h | h
      · exact exec_bset_i_eq_next h
      · exact exec_bset_i_eq_next h
      · exact exec_reti_eq_next h
    obtain ⟨hi, hdelay⟩ := heffect
    exact ⟨hi, hdelay, State.agents_sampled_of_delayed hdelay⟩
  case clears =>
    obtain ⟨-, -, -, -, -, -, -, hcli⟩ := exec_clearFlag s
    rw [hcli, or_self] at h
    have hi := exec_bclr_i_eq_next h
    exact ⟨hi, State.agents_sampled_of_masked hi⟩
  case out =>
    rw [exec_out_sreg] at h
    cases h
    exact ⟨rfl, rfl⟩

end Sys2Proof.Machine
end

section
/-! O9, O10, O12, O17: the interrupt entry (60_exceptions.md R404). An entry is a push of pc and then a change of fields
that no push touches, `entered`; where the push stops the entry stops. -/

namespace Sys2Proof.Machine

/-- Taking a request back changes the stored requests alone, and nothing for the level of EE_RDY. -/
theorem State.clearIrq_state (s : State) (n : Nat) :
    s.clearIrq n = { s with irq := if n = 18 then s.irq else s.irq.filter (fun m => m ≠ n) } := by
  rw [← State.clearIrq_irq]
  unfold State.clearIrq
  split <;> rfl

/-- What the entry of source `n` leaves, pc having been pushed: I clear, the request taken back unless it is the level
of EE_RDY, awake, the EEMWE window closed, and pc at the vector. -/
def State.entered (u : State) (n : Nat) : State :=
  { u with
    pc := u.dev.wrap (u.dev.vector n)
    sreg := withBit u.sreg bitI false
    irq := if n = 18 then u.irq else u.irq.filter (fun m => m ≠ n)
    sleeping := false
    window := .closed }

section
variable {s t u : State} {n : Nat} {e : Stop}

theorem State.interruptEntry_of_push (h : s.pushPc s.pc = .ok u) : s.interruptEntry n = .ok (u.entered n) := by
  rw [State.interruptEntry, h, res_bind_ok]
  dsimp only
  rw [State.clearIrq_state]
  rfl

theorem State.interruptEntry_of_push_error (h : s.pushPc s.pc = .error e) : s.interruptEntry n = .error e := by
  rw [State.interruptEntry, h]
  rfl

theorem State.interruptEntry_eq_entered (h : s.interruptEntry n = .ok t) :
    ∃ u, s.pushPc s.pc = .ok u ∧ t = u.entered n := by
  obtain ⟨u, hu, -⟩ := State.interruptEntry_eq_ok h
  exact ⟨u, hu, Except.ok.inj (h.symm.trans (State.interruptEntry_of_push hu))⟩

theorem State.mem_entered_irq (u : State) (n m : Nat) :
    m ∈ (u.entered n).irq ↔ m ∈ u.irq ∧ (m = n → n = 18) := by
  by_cases hn : n = 18 <;> simp [State.entered, hn]

theorem State.entered_flags (u : State) (n : Nat) : (u.entered n).flags = { u.flags with i := false } :=
  u.flags_setSregBit_i false

theorem State.entered_pc_toNat (u : State) (n : Nat) :
    (u.entered n).pc.toNat = u.dev.vectorStride * (n - 1) % 2 ^ u.dev.pcBits := by
  rw [State.entered, Device.wrap_toNat, Device.vector, BitVec.toNat_ofNat,
    Nat.mod_mod_of_dvd _ (Device.pow_pcBits_dvd _)]

theorem State.pushPc_irq {a : PcAddr} (h : s.pushPc a = .ok u) : u.irq = s.irq := by
  obtain ⟨⟨-, -, -, hirq⟩, -⟩ := State.pushPc_kept h
  exact hirq

theorem State.pushPc_of_push8_error {a : PcAddr} (h : ∀ v, s.push8 v = .error e) : s.pushPc a = .error e := by
  rw [State.pushPc, h]
  rfl

theorem State.push8_onStackPointer (h : s.onStackPointer s.sp = true) (v : Byte) :
    s.push8 v = .error (.refused .stackOnStackPointer) :=
  if_pos h

theorem State.push8_of_memWrite_error {v : Byte} (hsp : s.onStackPointer s.sp = false)
    (h : s.memWrite s.sp v = .error e) : s.push8 v = .error e := by
  rw [State.push8, hsp, h]
  rfl

/-- What is claimed of an entry whose push completes. -/
theorem State.interruptEntry_effect (h : s.pushPc s.pc = .ok u) :
    s.interruptEntry n = .ok (u.entered n) ∧ (u.entered n).flags = { u.flags with i := false } ∧
      (u.entered n).pc.toNat = s.dev.vectorStride * (n - 1) % 2 ^ s.dev.pcBits ∧
      ∀ m, m ∈ (u.entered n).irq ↔ m ∈ s.irq ∧ (m = n → n = 18) := by
  refine ⟨State.interruptEntry_of_push h, u.entered_flags n, ?_, fun m => ?_⟩
  · rw [u.entered_pc_toNat, State.pushPc_dev h]
  · rw [u.mem_entered_irq, State.pushPc_irq h]

/-- On a stack in SRAM the push of pc changes SRAM and SP alone. -/
theorem State.pushPc_pc_sram (hstack : s.stackInSram) :
    ∃ sp sram, s.pushPc s.pc = .ok { s with sp, sram } ∧ PushedAddress s { s with sp, sram } s.pc := by
  obtain ⟨u, hu, hpushed, hframe⟩ := s.pushPc_sram s.pc hstack
  rw [hframe] at hu hpushed
  exact ⟨_, _, hu, hpushed⟩

end

/-- Settles O9. -/
theorem interruptEntryEffect : Obligations.InterruptEntryEffect := by
  intro s n
  refine ⟨fun hstack => ?sram, fun u hu => ?pushed, fun e => State.interruptEntry_of_push_error,
    fun hon => ?onStackPointer, fun hlo hend => ?beyond⟩
  case sram =>
    obtain ⟨sp, sram, hu, hpushed⟩ := State.pushPc_pc_sram hstack
    obtain ⟨hentry, hflags, hpc, hirq⟩ := State.interruptEntry_effect (n := n) hu
    exact ⟨_, hentry, hpushed, hflags, hpc, rfl, rfl, hirq, rfl⟩
  case pushed =>
    obtain ⟨hentry, hflags, hpc, hirq⟩ := State.interruptEntry_effect (n := n) hu
    exact ⟨_, hentry, hflags, hpc, hirq, rfl⟩
  case onStackPointer =>
    rw [← eq_dataOfIo_iff, ← eq_dataOfIo_iff, ← State.onStackPointer_iff] at hon
    exact State.interruptEntry_of_push_error (State.pushPc_of_push8_error (State.push8_onStackPointer hon))
  case beyond =>
    refine State.interruptEntry_of_push_error (State.pushPc_of_push8_error fun v => ?_)
    have hstop : WriteStops s s.sp v _ := .inr (.inl ⟨hlo, hend, rfl⟩)
    exact State.push8_of_memWrite_error (State.not_onStackPointer_of_range (.inr hlo)) hstop.memWrite

/-- Settles O10: RETI pops what the entry pushed. -/
theorem entryThenRetiResumes : Obligations.EntryThenRetiResumes := by
  intro s t n hstack hpc h
  obtain ⟨sp, sram, hu, hpushed⟩ := State.pushPc_pc_sram hstack
  obtain ⟨hentry, hflags, -, -⟩ := State.interruptEntry_effect (n := n) hu
  cases h.symm.trans hentry
  obtain ⟨hreadable, hsp⟩ := PushedAddress.holds s (State.entered { s with sp, sram } n) s.pc hstack hpushed rfl
  refine ⟨_, exec_reti_of_pop (State.popPc_sram _ s.pc hreadable hpc), Device.wrap_of_lt _ s.pc hpc, hsp, rfl,
    ?flags, rfl⟩
  case flags =>
    have hback (f g : Flags) (hf : f = { g with i := false }) : { f with i := true } = { g with i := true } := by
      rw [hf]
    exact (State.flags_setSregBit_i _ true).trans (hback _ s.flags hflags)

/-! EE_RDY (R402, R416). -/

theorem State.pending_eeRdy_iff (s : State) : s.pending 18 = true ↔ s.eerie = true ∧ s.eeWrite = none := by
  simp [State.pending, eeRdySource, State.eeRdy, State.busy]

/-- Settles O12: an entry on a stack in SRAM touches neither EERIE nor a write in progress. -/
theorem eeReadyIsALevel : Obligations.EeReadyIsALevel := by
  refine ⟨State.pending_eeRdy_iff, fun s t hstack h => ?_⟩
  obtain ⟨sp, sram, hu, -⟩ := State.pushPc_pc_sram hstack
  cases h.symm.trans (State.interruptEntry_of_push hu)
  rw [Bool.eq_iff_iff, State.pending_eeRdy_iff, State.pending_eeRdy_iff]
  rfl

/-! The stored requests (R402, R404). -/

/-- After the agents' moves a step changes the stored requests only by the entry of a source. -/
theorem step_irq_cases {s t : State} (h : step s = .next t) :
    t.irq = s.agents.irq ∨
    ∃ n, s.agents.sampled = some n ∧ ∀ m, m ∈ t.irq ↔ m ∈ s.agents.irq ∧ (m = n → n = 18) := by
  rcases step_eq_next h with ⟨-, rfl⟩ | ⟨n, hn, hentry⟩ | ⟨-, -, rfl⟩ | ⟨-, -, i, -, hexec⟩
  · exact .inl rfl
  · obtain ⟨u, hu, rfl⟩ := State.interruptEntry_eq_entered hentry
    refine .inr ⟨n, hn, fun m => ?_⟩
    rw [State.mem_entered_irq, State.pushPc_irq hu]
  · exact .inl rfl
  · obtain ⟨⟨⟨-, -, -, hirq⟩, -⟩, -⟩ := exec_instrKept hexec
    exact .inl hirq

/-- The programmer's move changes only the EEPROM and the write in progress (R417). -/
theorem State.programmerMove_state (s : State) : s.programmerMove =
    { s with eeprom := s.programmerMove.eeprom, eeWrite := s.programmerMove.eeWrite } := by
  rcases s.programmerMove_cases with ⟨-, h⟩ | ⟨w, -, -, h⟩ | ⟨w, -, -, h⟩ <;> rw [h]

/-- The agents' moves clear no request and raise only sources of `ENV_IRQ`. -/
theorem State.mem_agents_irq (s : State) (n : Nat) :
    (n ∈ s.irq → n ∈ s.agents.irq) ∧ (n ∈ s.agents.irq → n ∈ s.irq ∨ n ∈ s.dev.envIrq) := by
  have hmove := s.programmerMove.mem_environmentMove_irq n
  have hirq : s.programmerMove.irq = s.irq := by rw [State.programmerMove_state]
  have hdev : s.programmerMove.dev = s.dev := by rw [State.programmerMove_state]
  rwa [hirq, hdev] at hmove

/-- Settles O17. -/
theorem requestsLeaveOnlyByEntry : Obligations.RequestsLeaveOnlyByEntry := by
  intro s t h
  refine ⟨fun m hbefore hafter => ?leaves, fun m hafter => (s.mem_agents_irq m).2 ?appears⟩
  case leaves =>
    have hagents : m ∈ s.agents.irq := (s.mem_agents_irq m).1 hbefore
    rcases step_irq_cases h with hirq | ⟨n, hn, hirq⟩
    · exact absurd (hirq ▸ hagents) hafter
    · have hm : m = n := by
        by_contra hne
        exact hafter ((hirq m).2 ⟨hagents, fun e => absurd e hne⟩)
      rw [hn, hm]
  case appears =>
    rcases step_irq_cases h with hirq | ⟨n, -, hirq⟩
    · exact hirq ▸ hafter
    · exact ((hirq m).1 hafter).1

end Sys2Proof.Machine
end

section
/-! O56, O57, O58, O60: the writes of EECR (60_exceptions.md R413 … R415). SBI writes one bit and OUT all of them; both
end in the three operations that set EERE, EEWE and EEMWE, and what each of these answers is said once by whether a
write is in progress, by the window and by EEAR. -/

namespace Sys2Proof.Machine

/-! What setting EERE, EEWE and EEMWE answers. -/

section
variable {s : State}

theorem State.busy_of_free (h : s.eeWrite = none) : s.busy = false := by
  rw [State.busy, h]
  rfl

theorem State.busy_of_writing (h : s.eeWrite ≠ none) : s.busy = true :=
  Option.isSome_iff_ne_none.2 h

theorem State.setEere_whileBusy (h : s.eeWrite ≠ none) : s.setEere = refuse .eereWhileBusy :=
  if_pos (State.busy_of_writing h)

theorem State.setEere_reads (hfree : s.eeWrite = none) (hin : s.eear.toNat < s.dev.eepromBytes) :
    s.setEere = .ok { s with eedr := Memory.read s.eeprom s.eear.toNat } := by
  rw [State.setEere, State.busy_of_free hfree, if_pos hin]
  rfl

theorem State.setEere_beyondEnd (hfree : s.eeWrite = none) (hend : s.dev.eepromBytes ≤ s.eear.toNat) :
    s.setEere = refuse (.eepromAddressBeyondEnd s.eear.toNat) := by
  rw [State.setEere, State.busy_of_free hfree, if_neg (Nat.not_lt.2 hend)]
  rfl

theorem State.setEemwe_closed (h : s.window = .closed) : s.setEemwe = .ok { s with window := .opened 0 } := by
  rw [State.setEemwe, h]

theorem State.setEemwe_opened {age : Fin 5} (h : s.window = .opened age) : s.setEemwe = refuse .eemweReopened := by
  rw [State.setEemwe, h]

variable (v2 : Bool)

theorem State.setEewe_whileBusy (h : s.eeWrite ≠ none) : s.setEewe v2 = .ok s :=
  if_pos (State.busy_of_writing h)

/-- With no write in progress EEWE is told by the window. -/
theorem State.setEewe_free (hfree : s.eeWrite = none) : s.setEewe v2 =
    if s.window = .opened 1 then s.startWrite
    else if s.window = .opened 2 ∨ s.window = .opened 3 ∨ s.window = .opened 4 then refuse .eeweLate
    else if v2 then refuse .eeweWithEemwe
    else .ok s := by
  rw [State.setEewe, State.busy_of_free hfree]
  rfl

theorem State.setEewe_starts (hfree : s.eeWrite = none) (h : s.window = .opened 1)
    (hin : s.eear.toNat < s.dev.eepromBytes) : s.setEewe v2 = .ok { s with
      eeWrite := some { addr := s.eear, data := s.eedr, wait := Config.programmerWait s.draws }
      window := .closed
      draws := s.draws + 1 } := by
  rw [State.setEewe_free v2 hfree, if_pos h, State.startWrite, if_pos hin]

theorem State.setEewe_beyondEnd (hfree : s.eeWrite = none) (h : s.window = .opened 1)
    (hend : s.dev.eepromBytes ≤ s.eear.toNat) : s.setEewe v2 = refuse (.eepromAddressBeyondEnd s.eear.toNat) := by
  rw [State.setEewe_free v2 hfree, if_pos h, State.startWrite, if_neg (Nat.not_lt.2 hend)]

theorem State.setEewe_late (hfree : s.eeWrite = none) {age : Fin 5} (h : s.window = .opened age)
    (hage : 2 ≤ age.val) : s.setEewe v2 = refuse .eeweLate := by
  have hlate : ∀ a : Fin 5, 2 ≤ a.val → a ≠ 1 ∧ (a = 2 ∨ a = 3 ∨ a = 4) := by decide
  obtain ⟨hne, hcases⟩ := hlate age hage
  rw [State.setEewe_free v2 hfree, h]
  simp only [EemweWindow.opened.injEq, hne, hcases, if_false, if_true]

theorem State.setEewe_closed (hfree : s.eeWrite = none) (h : s.window = .closed) (hv2 : v2 = false) :
    s.setEewe v2 = .ok s := by
  rw [State.setEewe_free v2 hfree, h, hv2]
  rfl

theorem State.setEewe_withEemwe (hfree : s.eeWrite = none) (h : s.window = .closed) (hv2 : v2 = true) :
    s.setEewe v2 = refuse .eeweWithEemwe := by
  rw [State.setEewe_free v2 hfree, h, hv2]
  rfl

end

/-! A write of the whole byte, by its bits (R413). -/

section
variable {s : State} {v : Byte}

theorem State.writeEecr_eeweWithEere (h0 : v.getLsbD 0 = true) (h1 : v.getLsbD 1 = true) :
    s.writeEecr v = refuse .eeweWithEere := by
  have b0 : bitOf v 0 = true := h0
  have b1 : bitOf v 1 = true := h1
  rw [State.writeEecr, b0, b1]
  rfl

theorem State.writeEecr_eewe (h0 : v.getLsbD 0 = false) (h1 : v.getLsbD 1 = true) :
    s.writeEecr v = State.setEewe { s with eerie := v.getLsbD 3 } (v.getLsbD 2) := by
  have b0 : bitOf v 0 = false := h0
  have b1 : bitOf v 1 = true := h1
  simp only [State.writeEecr, State.writeEnables, b0, b1]
  exact bind_pure _

/-- Without EEWE: EERIE is written, EEMWE opens or closes the window, and then EERE reads. -/
theorem State.writeEecr_withoutEewe (h1 : v.getLsbD 1 = false) : s.writeEecr v =
    ((if v.getLsbD 2 then State.setEemwe { s with eerie := v.getLsbD 3 }
      else .ok { s with eerie := v.getLsbD 3, window := .closed }) >>= fun u =>
        if v.getLsbD 0 then u.setEere else .ok u) := by
  have b1 : bitOf v 1 = false := h1
  simp only [State.writeEecr, State.writeEnables, b1]
  rfl

/-- The window after EEMWE was written with `v2`, EEWE being 0. -/
def windowAfter (v2 : Bool) : EemweWindow := if v2 then .opened 0 else .closed

/-- With EEMWE clear, or the window closed, what is left is EERE. -/
theorem State.writeEecr_eere (h0 : v.getLsbD 0 = true) (h1 : v.getLsbD 1 = false)
    (hopen : v.getLsbD 2 = true → s.window = .closed) :
    s.writeEecr v = State.setEere { s with eerie := v.getLsbD 3, window := windowAfter (v.getLsbD 2) } := by
  rw [State.writeEecr_withoutEewe h1, h0]
  cases h2 : v.getLsbD 2 with
  | false => rfl
  | true =>
    rw [if_pos rfl, State.setEemwe_closed (s := { s with eerie := v.getLsbD 3 }) (hopen h2)]
    rfl

theorem State.writeEecr_reads (h0 : v.getLsbD 0 = true) (h1 : v.getLsbD 1 = false)
    (hopen : v.getLsbD 2 = true → s.window = .closed) (hfree : s.eeWrite = none)
    (hin : s.eear.toNat < s.dev.eepromBytes) : s.writeEecr v = .ok { s with
      eedr := Memory.read s.eeprom s.eear.toNat
      eerie := v.getLsbD 3
      window := windowAfter (v.getLsbD 2) } := by
  rw [State.writeEecr_eere h0 h1 hopen]
  exact State.setEere_reads hfree hin

theorem State.writeEecr_opens (h0 : v.getLsbD 0 = false) (h1 : v.getLsbD 1 = false) (h2 : v.getLsbD 2 = true)
    (h : s.window = .closed) : s.writeEecr v = .ok { s with eerie := v.getLsbD 3, window := .opened 0 } := by
  rw [State.writeEecr_withoutEewe h1, h0, h2, if_pos rfl,
    State.setEemwe_closed (s := { s with eerie := v.getLsbD 3 }) h]
  rfl

theorem State.writeEecr_reopens {age : Fin 5} (h1 : v.getLsbD 1 = false) (h2 : v.getLsbD 2 = true)
    (h : s.window = .opened age) : s.writeEecr v = refuse .eemweReopened := by
  rw [State.writeEecr_withoutEewe h1, h2, if_pos rfl, State.setEemwe_opened (s := { s with eerie := v.getLsbD 3 }) h]
  rfl

end

/-! SBI and OUT of EECR. -/

/-- `o` is what an instruction of one word answers that writes EECR, the write itself answering `x`. -/
def EecrStep (s : State) (o : StepOutcome State) (x : Res State) : Prop :=
  o = finish (x >>= fun u => .ok (u.advance 1)) ∧ ∀ u, x = .ok u → EepromFrame s u

theorem exec_sbi_eecrStep {s : State} {A : BitVec 5} (hwf : s.dev.wf = true) (hA : A.setWidth 6 = s.dev.eecrAddr)
    (b : BitVec 3) : EecrStep s (exec (.sbi A b) s) (s.writeEecrBit b true) := by
  refine ⟨?_, fun u => State.writeEecrBit_frame⟩
  rw [← State.ioWriteBit_eecr (hA ▸ Device.ioReg_eecr hwf)]
  rfl

theorem exec_out_eecrStep {s : State} (hwf : s.dev.wf = true) (r : Reg) :
    EecrStep s (exec (.out s.dev.eecrAddr r) s) (s.writeEecr (s.reg r)) := by
  refine ⟨?_, fun u => State.writeEecr_frame⟩
  rw [exec_out, State.ioWrite, Device.ioReg_eecr hwf]

section
variable {s u : State} {o : StepOutcome State} {x : Res State} (ho : EecrStep s o x)
include ho

theorem EecrStep.next (hx : x = .ok u) : o = .next (u.advance 1) ∧ MovedBy s (u.advance 1) 1 := by
  obtain ⟨ho, hframe⟩ := ho
  obtain ⟨hu, -⟩ := hframe u hx
  rw [hx] at ho
  exact ⟨ho, MovedBy.advance_one (by rw [hu]) (by rw [hu])⟩

theorem EecrStep.completes (hx : x = .ok u) : ∃ t, o = .next t ∧ t = { u with pc := t.pc } ∧ MovedBy s t 1 := by
  obtain ⟨hnext, hmoved⟩ := ho.next hx
  exact ⟨_, hnext, rfl, hmoved⟩

theorem EecrStep.moves (hx : x = .ok u) : ∃ t, o = .next t ∧ MovedBy s t 1 ∧ t = { u with pc := t.pc } := by
  obtain ⟨hnext, hmoved⟩ := ho.next hx
  exact ⟨_, hnext, hmoved, rfl⟩

theorem EecrStep.refuses {r : Refusal} (hx : x = refuse r) : o = .refused r := by
  obtain ⟨ho, -⟩ := ho
  rwa [hx] at ho

end

/-- Settles O56. -/
theorem eepromReadEffect : Obligations.EepromReadEffect := by
  intro s A r hwf hA hfree hin
  have hout := exec_out_eecrStep hwf r
  refine ⟨(exec_sbi_eecrStep hwf hA 0).moves (State.setEere_reads hfree hin), fun h0 h1 h2 => ?alone,
    fun h0 h1 h2 hclosed => ?withEemwe⟩
  case alone =>
    have hread := hout.moves (State.writeEecr_reads h0 h1 (by rw [h2]; nofun) hfree hin)
    rwa [h2] at hread
  case withEemwe =>
    have hread := hout.moves (State.writeEecr_reads h0 h1 (fun _ => hclosed) hfree hin)
    rwa [h2] at hread

/-! The write sequence (R415). -/

theorem MovedBy.trans {s t u : State} {m n : Int} (hdev : t.dev = s.dev) (h : MovedBy s t m) (k : MovedBy t u n) :
    MovedBy s u (m + n) := by
  unfold MovedBy at *
  rw [k, h, hdev, Int.emod_add_emod, Int.add_assoc]

/-- The state after EEMWE was set alone in `s`, EERIE being `x` then. -/
def State.eemweSet (s : State) (x : Bool) : State := State.advance { s with window := .opened 0, eerie := x } 1

/-- In the instruction after EEMWE was set, EEWE starts the write. -/
theorem EecrStep.startsWrite {s : State} {o : StepOutcome State} {z : Res State} {x y v2 : Bool}
    (ho : EecrStep (s.eemweSet x).beginInstr o z)
    (hz : z = State.setEewe { (s.eemweSet x).beginInstr with eerie := y } v2)
    (hmoved : MovedBy s (s.eemweSet x) 1) (hfree : s.eeWrite = none) (hin : s.eear.toNat < s.dev.eepromBytes) :
    ∃ u w, o = .next u ∧ MovedBy s u 2 ∧ u.eeWrite = some w ∧ w.addr = s.eear ∧ w.data = s.eedr ∧
      u = { s with pc := u.pc, inhibit := false, eeWrite := u.eeWrite, window := .closed, draws := u.draws,
                   eerie := y } := by
  obtain ⟨hnext, hmoved'⟩ := ho.next (hz.trans (State.setEewe_starts v2 hfree rfl hin))
  have hboth : MovedBy s _ (1 + 1) := MovedBy.trans (t := (s.eemweSet x).beginInstr) rfl hmoved hmoved'
  exact ⟨_, _, hnext, hboth, rfl, rfl, rfl, rfl⟩

/-- Settles O57. -/
theorem eepromWriteSequence : Obligations.EepromWriteSequence := by
  intro s A r q hwf hA hfree hclosed hin
  refine ⟨?sbi, fun h0 h1 h2 k0 k1 => ?out⟩
  case sbi =>
    obtain ⟨hnext, hmoved⟩ := (exec_sbi_eecrStep hwf hA 2).next (State.setEemwe_closed hclosed)
    have hsecond := exec_sbi_eecrStep (s := (s.eemweSet s.eerie).beginInstr) hwf hA 1
    obtain ⟨u, w, hu⟩ := hsecond.startsWrite (v2 := false) rfl hmoved hfree hin
    exact ⟨_, u, w, hnext, rfl, hmoved, hu⟩
  case out =>
    obtain ⟨hnext, hmoved⟩ := (exec_out_eecrStep hwf r).next (State.writeEecr_opens h0 h1 h2 hclosed)
    have hsecond := exec_out_eecrStep (s := (s.eemweSet ((s.reg r).getLsbD 3)).beginInstr) hwf q
    obtain ⟨u, w, hu⟩ := hsecond.startsWrite (State.writeEecr_eewe k0 k1) hmoved hfree hin
    exact ⟨_, u, w, hnext, hmoved, rfl, hu⟩

/-! The age of the window (R415, D36). -/

theorem aged_iterate_opened {n : Nat} (h : n < 5) : EemweWindow.aged^[n] (.opened 0) = .opened ⟨n, h⟩ := by
  have hages : ∀ k : Fin 5, EemweWindow.aged^[k.val] (.opened 0) = .opened k := by decide
  exact hages ⟨n, h⟩

theorem aged_iterate_closed {n : Nat} (h : 5 ≤ n) : EemweWindow.aged^[n] (.opened 0) = .closed := by
  obtain ⟨k, rfl⟩ := Nat.exists_eq_add_of_le' h
  rw [Function.iterate_add_apply]
  exact Function.iterate_fixed (rfl : EemweWindow.closed.aged = .closed) k

/-- Settles O58. -/
theorem eemweWindowCloses : Obligations.EemweWindowCloses := by
  intro s A r n hwf hA hfree hwindow
  have hsbi := exec_sbi_eecrStep hwf hA
  have hout := exec_out_eecrStep hwf r
  refine ⟨fun hlo hhi => ?late, fun hhi => ?reopened, fun hlo => ?closed⟩
  case late =>
    rw [aged_iterate_opened (by omega)] at hwindow
    exact ⟨(hsbi 1).refuses (State.setEewe_late false hfree hwindow hlo),
      fun h0 h1 => hout.refuses ((State.writeEecr_eewe h0 h1).trans (State.setEewe_late _ hfree hwindow hlo))⟩
  case reopened =>
    rw [aged_iterate_opened (by omega)] at hwindow
    exact ⟨(hsbi 2).refuses (State.setEemwe_opened hwindow),
      fun h1 h2 => hout.refuses (State.writeEecr_reopens h1 h2 hwindow)⟩
  case closed =>
    rw [aged_iterate_closed hlo] at hwindow
    exact ⟨hwindow, (hsbi 1).completes (State.setEewe_closed false hfree hwindow rfl),
      (hsbi 2).completes (State.setEemwe_closed hwindow),
      fun h0 h1 h2 =>
        hout.refuses ((State.writeEecr_eewe h0 h1).trans (State.setEewe_withEemwe _ hfree hwindow h2)),
      fun h0 h1 h2 =>
        hout.completes ((State.writeEecr_eewe h0 h1).trans (State.setEewe_closed _ hfree hwindow h2)),
      fun h0 h1 h2 => hout.moves (State.writeEecr_opens h0 h1 h2 hwindow)⟩

/-- Settles O60. -/
theorem eepromProtocolRefusals : Obligations.EepromProtocolRefusals := by
  intro s A r hwf hA
  have hsbi := exec_sbi_eecrStep hwf hA
  have hout := exec_out_eecrStep hwf r
  refine ⟨fun hbusy => ?busy, fun h0 h1 => hout.refuses (State.writeEecr_eeweWithEere h0 h1),
    fun hfree hend => ?beyondEnd⟩
  case busy =>
    exact ⟨(hsbi 0).refuses (State.setEere_whileBusy hbusy),
      (hsbi 1).completes (State.setEewe_whileBusy false hbusy),
      fun hclosed => (hsbi 2).completes (State.setEemwe_closed hclosed),
      fun h0 h1 hopen => hout.refuses ((State.writeEecr_eere h0 h1 hopen).trans (State.setEere_whileBusy hbusy)),
      fun h0 h1 => hout.completes ((State.writeEecr_eewe h0 h1).trans (State.setEewe_whileBusy _ hbusy)),
      fun h0 h1 h2 hclosed => hout.moves (State.writeEecr_opens h0 h1 h2 hclosed)⟩
  case beyondEnd =>
    exact ⟨(hsbi 0).refuses (State.setEere_beyondEnd hfree hend),
      fun h0 h1 hopen =>
        hout.refuses ((State.writeEecr_eere h0 h1 hopen).trans (State.setEere_beyondEnd hfree hend)),
      fun hwindow => ⟨(hsbi 1).refuses (State.setEewe_beyondEnd false hfree hwindow hend),
        fun h0 h1 =>
          hout.refuses ((State.writeEecr_eewe h0 h1).trans (State.setEewe_beyondEnd _ hfree hwindow hend))⟩⟩

end Sys2Proof.Machine
end

section
/-! O59: the end of an EEPROM write (60_exceptions.md R417). The programmer's moves are counted by the wait that is
left; the environment, which moves between them, changes only the requests and the number of draws. -/

namespace Sys2Proof.Machine

/-! The programmer's moves. -/

section
variable {s : State} {w : EeWrite}

theorem State.programmerMove_waits (hw : s.eeWrite = some w) (h : w.wait ≠ 0) :
    s.programmerMove = { s with eeWrite := some { w with wait := w.wait - 1 } } := by
  rw [State.programmerMove, hw]
  exact if_neg h

theorem State.programmerMove_writes (hw : s.eeWrite = some w) (h : w.wait = 0) :
    s.programmerMove = { s with eeprom := Memory.write s.eeprom w.addr.toNat w.data, eeWrite := none } := by
  rw [State.programmerMove, hw]
  exact if_pos h

/-- Until the wait has run out each move only takes one from it. -/
theorem State.programmerMove_iterate (hw : s.eeWrite = some w) {k : Nat} (hk : k ≤ w.wait) :
    State.programmerMove^[k] s = { s with eeWrite := some { w with wait := w.wait - k } } := by
  induction k with
  | zero =>
    rw [Nat.sub_zero, ← hw]
    rfl
  | succ k ih =>
    have hleft : w.wait - k ≠ 0 := by omega
    rw [Function.iterate_succ_apply', ih (by omega), State.programmerMove_waits rfl hleft, Nat.sub_sub]

/-- The move after the wait writes the latched byte and ends the write. -/
theorem State.programmerMove_iterate_done (hw : s.eeWrite = some w) : State.programmerMove^[w.wait + 1] s =
    { s with eeprom := Memory.write s.eeprom w.addr.toNat w.data, eeWrite := none } := by
  rw [Function.iterate_succ_apply', State.programmerMove_iterate hw le_rfl,
    State.programmerMove_writes rfl (Nat.sub_self _)]

end

/-! The agents' moves of a halted processor (R467). -/

/-- Nothing differs but the stored requests and the number of draws. -/
def SameButRequests (s t : State) : Prop := t = { s with irq := t.irq, draws := t.draws }

theorem SameButRequests.programmerMove {s t : State} (h : SameButRequests s t) :
    SameButRequests s.programmerMove t.programmerMove := by
  have heeprom : t.eeprom = s.eeprom := by rw [h]
  have heeWrite : t.eeWrite = s.eeWrite := by rw [h]
  unfold SameButRequests
  rcases s.programmerMove_cases with ⟨hw, hm⟩ | ⟨w, hw, hwait, hm⟩ | ⟨w, hw, hwait, hm⟩
  · have ht : t.programmerMove = t := by rw [State.programmerMove, heeWrite, hw]
    rw [hm, ht]
    exact h
  · rw [hm, State.programmerMove_writes (heeWrite.trans hw) hwait, h]
  · rw [hm, State.programmerMove_waits (heeWrite.trans hw) hwait, h]

theorem SameButRequests.agents {s t : State} (h : SameButRequests s t) : SameButRequests s.programmerMove t.agents := by
  have hmove := h.programmerMove
  unfold SameButRequests at *
  rw [State.agents, State.environmentMove_state, hmove]

/-- Of the agents' moves only the programmer's are seen outside the requests and the draws. -/
theorem State.agents_iterate (s : State) (k : Nat) :
    SameButRequests (State.programmerMove^[k] s) (State.agents^[k] s) := by
  induction k with
  | zero => exact (rfl : s = s)
  | succ k ih =>
    rw [Function.iterate_succ_apply', Function.iterate_succ_apply']
    exact ih.agents

theorem State.agents_iterate_halted {s : State} (h : s.halted = true) (k : Nat) :
    (State.agents^[k] s).halted = true := by
  induction k with
  | zero => exact h
  | succ k ih => rwa [Function.iterate_succ_apply', State.agents_halted]

/-- What is final does not depend on the requests or the draws. -/
theorem SameButRequests.final {s t : State} (h : SameButRequests s t) : t.final = s.final := by
  rw [h]
  rfl

theorem State.not_final_of_busy {s : State} (h : s.busy = true) : s.final = false := by
  rw [State.final, h]
  rfl

/-- At a BREAK that ends the run, a state is final as soon as no write is in progress (D17). -/
theorem State.final_of_break {s : State} (hbusy : s.busy = false) (hmode : s.dev.breakMode = .stop)
    (hword : s.progWord? s.pc.toNat = some 0x9598) : s.final = true := by
  simp only [State.final, hbusy, hmode, hword, Bool.not_false, decide_true, Bool.and_self, Bool.or_true]

/-- Settles O59. -/
theorem programmerCompletesTheWrite : Obligations.ProgrammerCompletesTheWrite := by
  intro s w hinv hw
  obtain ⟨-, -, -, -, heeprom, -⟩ := hinv
  have hwaits {k : Nat} (hk : k ≤ w.wait) := State.programmerMove_iterate hw hk
  have hdone := State.programmerMove_iterate_done hw
  refine ⟨fun k hk => ?waits, ?ends, fun a => ?written,
    fun hhalt hmode hword => ⟨fun k => ?steps, fun k hk => ?notYet, ?final⟩⟩
  case waits =>
    rw [hwaits hk]
    exact ⟨rfl, rfl⟩
  case ends =>
    rw [hdone]
    rfl
  case written =>
    obtain ⟨hrising, -⟩ := Memory.wf_iff.1 heeprom
    rw [hdone]
    exact Memory.read_write hrising w.addr.toNat a w.data
  case steps =>
    rw [Function.iterate_succ_apply']
    exact step_of_halted (State.agents_iterate_halted hhalt k)
  case notYet =>
    rw [(s.agents_iterate k).final, hwaits hk]
    exact State.not_final_of_busy rfl
  case final =>
    rw [(s.agents_iterate _).final, hdone]
    exact State.final_of_break rfl hmode hword

end Sys2Proof.Machine
end

section
/-! O18: the end of a run (70_reset_and_hazards.md R467). A final state steps in one of four ways: it is halted, it sleeps,
or it runs RJMP −1 or the BREAK that stops the run. With no write in progress the agents are seen only in the requests
and the draws, and with I clear no interrupt is entered. -/

namespace Sys2Proof.Machine

/-! What a final state is, and what it does not depend on. -/

theorem State.final_iff {s : State} : s.final = true ↔ s.eeWrite = none ∧
    ((s.progWord? s.pc.toNat = some 0xCFFF ∧ bitOf s.sreg bitI = false) ∨
      (s.sleeping = true ∧ bitOf s.sreg bitI = false) ∨
      (s.dev.breakMode = .stop ∧ s.progWord? s.pc.toNat = some 0x9598)) := by
  simp only [State.final, State.busy, Bool.and_eq_true, Bool.or_eq_true, Bool.not_eq_true', decide_eq_true_eq,
    Option.isSome_eq_false_iff, Option.isNone_iff_eq_none, or_assoc]

/-- Nothing differs but what a step of a final state can change. -/
def Idled (s t : State) : Prop :=
  t = { s with inhibit := t.inhibit, window := t.window, irq := t.irq, draws := t.draws, halted := t.halted }

theorem Idled.final {s t : State} (h : Idled s t) : t.final = s.final := by
  rw [h]
  rfl

theorem SameButRequests.idled {s u : State} (h : SameButRequests s u) (delay : Bool) (w : EemweWindow) (halt : Bool) :
    Idled s { u with inhibit := delay, window := w, halted := halt } := by
  unfold Idled
  rw [h]

/-- With no write in progress the programmer does not move (60_exceptions.md R417). -/
theorem State.agents_of_free {s : State} (hfree : s.eeWrite = none) : SameButRequests s s.agents := by
  have hprogrammer : s.programmerMove = s := by rw [State.programmerMove, hfree]
  have hmove : SameButRequests s.programmerMove s.agents := SameButRequests.agents (s := s) rfl
  rwa [hprogrammer] at hmove

/-! The two instructions that a final state can be at (41_branch.md R201, 44_mcu_control.md R391). -/

theorem decode_rjmpMinusOne (core : CoreKind) : decode core 0xCFFF 0 = some (.rjmp 0xFFF) := by
  cases core <;> decide

theorem decode_brk (core : CoreKind) : decode core 0x9598 0 = some .brk := by
  cases core <;> decide

theorem State.target12_minusOne (s : State) : s.target12 0xFFF = s.pc := by
  have hoffset : (0xFFF : BitVec 12).signExtend 22 = -1 := by decide
  rw [State.target12, hoffset, BitVec.add_assoc]
  exact BitVec.add_zero s.pc

theorem exec_rjmpMinusOne {s : State} (hpc : s.pc.toNat < 2 ^ s.dev.pcBits) : exec (.rjmp 0xFFF) s = .next s := by
  change execRjmp 0xFFF s = _
  rw [execRjmp, State.target12_minusOne, State.setPc, Device.wrap_of_lt _ _ hpc]

/-- With I clear, a processor that is awake and not halted runs the one-word instruction that its word at pc is. -/
theorem step_of_oneWord {s : State} {w : Word} {i : Instr} (hi : bitOf s.sreg bitI = false)
    (hawake : s.sleeping = false) (hhalt : s.halted = false) (hw : s.progWord? s.pc.toNat = some w)
    (hone : skipLen w = 1) (hdec : decode s.dev.core w 0 = some i) (hadm : s.dev.admits i = true) :
    step s = exec i s.agents.beginInstr := by
  have hfetch : s.agents.fetch = .ok i := by
    rw [State.agents_state]
    exact State.fetch_of_decode hw (fun htwo => absurd (hone.symm.trans htwo) (by decide)) hdec hadm
  exact step_of_fetch (State.agents_sampled_of_masked hi) (s.agents_sleeping.trans hawake) hhalt hfetch

/-! The steps of a final state that is not halted, by what makes it final. -/

section
variable {s : State} (hfree : s.eeWrite = none) (hi : bitOf s.sreg bitI = false) (hhalt : s.halted = false)
include hfree hi hhalt

theorem idles_asleep (hsleep : s.sleeping = true) : ∃ t, step s = .next t ∧ Idled s t :=
  ⟨_, step_of_asleep hsleep (State.agents_sampled_of_masked hi) hhalt, (State.agents_of_free hfree).idled false _ _⟩

theorem idles_rjmpMinusOne (hpc : s.pc.toNat < 2 ^ s.dev.pcBits) (hawake : s.sleeping = false)
    (hw : s.progWord? s.pc.toNat = some 0xCFFF) : ∃ t, step s = .next t ∧ Idled s t := by
  have hstep := step_of_oneWord hi hawake hhalt hw rfl (decode_rjmpMinusOne _) rfl
  have hpc' : s.agents.beginInstr.pc.toNat < 2 ^ s.agents.beginInstr.dev.pcBits := by
    rw [State.agents_state]
    exact hpc
  exact ⟨_, hstep.trans (exec_rjmpMinusOne hpc'), (State.agents_of_free hfree).idled false _ _⟩

theorem idles_brk (hbreak : s.dev.hasBreak = true) (hmode : s.dev.breakMode = .stop) (hawake : s.sleeping = false)
    (hw : s.progWord? s.pc.toNat = some 0x9598) : ∃ t, step s = .next t ∧ Idled s t := by
  have hstep := step_of_oneWord hi hawake hhalt hw rfl (decode_brk _) hbreak
  have hdev : s.agents.beginInstr.dev = s.dev := by
    rw [State.agents_state]
    rfl
  rw [← hdev] at hbreak hmode
  exact ⟨_, hstep.trans (exec_brk_stop hbreak hmode), (State.agents_of_free hfree).idled false _ true⟩

end

/-- Settles O18. -/
theorem finalStatesStayFinal : Obligations.FinalStatesStayFinal := by
  intro s hinv hstop hfinal
  obtain ⟨-, hpc, -⟩ := hinv
  obtain ⟨hfree, hkind⟩ := State.final_iff.1 hfinal
  have hidles : ∃ t, step s = .next t ∧ Idled s t := by
    cases hhalt : s.halted with
    | true => exact ⟨_, step_of_halted hhalt, (State.agents_of_free hfree).idled _ _ _⟩
    | false =>
      have hbreak (hmode : s.dev.breakMode = .stop) := (hstop hmode).resolve_left (by rw [hhalt]; decide)
      have hi : bitOf s.sreg bitI = false := by
        rcases hkind with ⟨-, hi⟩ | ⟨-, hi⟩ | ⟨hmode, -⟩
        · exact hi
        · exact hi
        · exact (hbreak hmode).left
      cases hsleep : s.sleeping with
      | true => exact idles_asleep hfree hi hhalt hsleep
      | false =>
        rcases hkind with ⟨hw, -⟩ | ⟨hasleep, -⟩ | ⟨hmode, hw⟩
        · exact idles_rjmpMinusOne hfree hi hhalt hpc hsleep hw
        · exact absurd (hasleep.symm.trans hsleep) (by decide)
        · obtain ⟨-, hhas | hasleep | hother⟩ := hbreak hmode
          · exact idles_brk hfree hi hhalt hhas hmode hsleep hw
          · exact absurd (hasleep.symm.trans hsleep) (by decide)
          · exact absurd hw hother
  obtain ⟨t, hstep, hidled⟩ := hidles
  exact ⟨t, hstep, hidled.final.trans hfinal, hidled⟩

end Sys2Proof.Machine
end
